-- ==== Sys2Proof/Word.lean ====
section
/-! DEFINITION. The machine's data widths (spec/00_scope.md rules R7 and R9): what the spec treats as bits is a bit
vector, bit 0 the least significant; a register number is an index. -/

namespace Sys2Proof

/-- A general register, a scratchpad cell, a port value, an ALU operand: 8 bits (R7 `XLEN`). -/
abbrev Byte := BitVec 8

/-- An instruction word, one program memory location: 18 bits (R7 `IWORD_BITS`, R70). -/
abbrev Word := BitVec 18

/-- A program address: the program counter and a return-stack entry, 10 bits (R7 `PC_BITS`). -/
abbrev Addr := BitVec 10

/-- A register index, 0 to 15 (R7 `NREG`, R21). -/
abbrev Reg := Fin 16

end Sys2Proof
end

