-- ==== Sys2Proof/Config.lean ====
section
/-! DEFINITION. What the spec leaves to the outside (spec/00_scope.md rule R8), as free values: constants without a
body, of which nothing can be proved. Every size of the machine is fixed by rule R7 and admits no other value, so no
size is configurable; the sizes stand in the types of Machine/State.lean. -/

namespace Sys2Proof

/-- One access of the port space (spec/10_state.md rule R33): a call of the external read function with the port and
the byte it answered, or a call of the external write function with the port and the byte written. -/
inductive PortEvent where
  | read  (port value : Byte)
  | write (port value : Byte)
  deriving DecidableEq, Repr

/-- The byte a port device answers, given all port events so far and the port read: any value (R33, decision D16;
spec/93_implementation_defined.md U4). It stands for a draw under no law. DESIGN CHOICE, log 1. -/
opaque Config.portDraw : List PortEvent → Byte → Byte

/-- The word program memory holds at an address the loader did not fill, after so many program replacements: any
value (spec/10_state.md rule R30, decision D10; spec/93_implementation_defined.md U5). DESIGN CHOICE, log 3. -/
opaque Config.unloadedWord : Nat → Addr → Word

end Sys2Proof
end

