-- ==== Sys2Proof/Syntax.lean ====
section
/-! DEFINITION. The instructions: one constructor for each of the 53 rows of spec/opcode_table.json
(spec/30_encoding.md rules R80, R81, R94), with the operands the encoding gives it. `x` is the register in reg1, `y` the
one in reg2, `k` a constant, `a` a scratchpad address, `p` a port, `t` a branch target (rule R90). Bits an instruction
does not examine (rule R89) are no operand. -/

namespace Sys2Proof

/-- The condition of a conditional jump, call or return (spec/30_encoding.md rule R77). -/
inductive Cond where
  | z | nz | c | nc
  deriving DecidableEq, Repr

/-- Why a word is no instruction (spec/30_encoding.md rule R88, spec/60_exceptions.md rule R190). -/
inductive IllegalCause where
  /-- the opcode group is none of the 35 of rule R80 -/
  | group
  /-- group 0x20 with a selector that rule R81 does not list -/
  | selector
  /-- group 0x2B, 0x31 or 0x35 with a condition field other than 0, 4, 8, C (rule R77) -/
  | condition
  deriving DecidableEq, Repr

/-- The 53 instructions. -/
inductive Instr where
  /-- `LOAD sX, kk` (R101) -/
  | loadImm (x : Reg) (k : Byte)
  /-- `LOAD sX, sY` (R102) -/
  | loadReg (x : Reg) (y : Reg)
  /-- `AND sX, kk` (R103) -/
  | andImm (x : Reg) (k : Byte)
  /-- `AND sX, sY` (R104) -/
  | andReg (x : Reg) (y : Reg)
  /-- `OR sX, kk` (R105) -/
  | orImm (x : Reg) (k : Byte)
  /-- `OR sX, sY` (R106) -/
  | orReg (x : Reg) (y : Reg)
  /-- `XOR sX, kk` (R107) -/
  | xorImm (x : Reg) (k : Byte)
  /-- `XOR sX, sY` (R108) -/
  | xorReg (x : Reg) (y : Reg)
  /-- `ADD sX, kk` (R109) -/
  | addImm (x : Reg) (k : Byte)
  /-- `ADD sX, sY` (R110) -/
  | addReg (x : Reg) (y : Reg)
  /-- `ADDCY sX, kk` (R111) -/
  | addcyImm (x : Reg) (k : Byte)
  /-- `ADDCY sX, sY` (R112) -/
  | addcyReg (x : Reg) (y : Reg)
  /-- `SUB sX, kk` (R113) -/
  | subImm (x : Reg) (k : Byte)
  /-- `SUB sX, sY` (R114) -/
  | subReg (x : Reg) (y : Reg)
  /-- `SUBCY sX, kk` (R115) -/
  | subcyImm (x : Reg) (k : Byte)
  /-- `SUBCY sX, sY` (R116) -/
  | subcyReg (x : Reg) (y : Reg)
  /-- `COMPARE sX, kk` (R117) -/
  | compareImm (x : Reg) (k : Byte)
  /-- `COMPARE sX, sY` (R118) -/
  | compareReg (x : Reg) (y : Reg)
  /-- `TEST sX, kk` (R119) -/
  | testImm (x : Reg) (k : Byte)
  /-- `TEST sX, sY` (R120) -/
  | testReg (x : Reg) (y : Reg)
  /-- `RL sX` (R131) -/
  | rl (x : Reg)
  /-- `RR sX` (R132) -/
  | rr (x : Reg)
  /-- `SL0 sX` (R133) -/
  | sl0 (x : Reg)
  /-- `SL1 sX` (R134) -/
  | sl1 (x : Reg)
  /-- `SLA sX` (R135) -/
  | sla (x : Reg)
  /-- `SLX sX` (R136) -/
  | slx (x : Reg)
  /-- `SR0 sX` (R137) -/
  | sr0 (x : Reg)
  /-- `SR1 sX` (R138) -/
  | sr1 (x : Reg)
  /-- `SRA sX` (R139) -/
  | sra (x : Reg)
  /-- `SRX sX` (R140) -/
  | srx (x : Reg)
  /-- `JUMP aa` (R152) -/
  | jump (t : Byte)
  /-- `JUMP Z, aa` (R158) -/
  | jumpZ (t : Byte)
  /-- `JUMP NZ, aa` (R158) -/
  | jumpNZ (t : Byte)
  /-- `JUMP C, aa` (R158) -/
  | jumpC (t : Byte)
  /-- `JUMP NC, aa` (R158) -/
  | jumpNC (t : Byte)
  /-- `CALL aa` (R154) -/
  | call (t : Byte)
  /-- `CALL Z, aa` (R159) -/
  | callZ (t : Byte)
  /-- `CALL NZ, aa` (R159) -/
  | callNZ (t : Byte)
  /-- `CALL C, aa` (R159) -/
  | callC (t : Byte)
  /-- `CALL NC, aa` (R159) -/
  | callNC (t : Byte)
  /-- `RETURN` (R156) -/
  | ret
  /-- `RETURN Z` (R160) -/
  | retZ
  /-- `RETURN NZ` (R160) -/
  | retNZ
  /-- `RETURN C` (R160) -/
  | retC
  /-- `RETURN NC` (R160) -/
  | retNC
  /-- `FETCH sX, ss` (R172) -/
  | fetchImm (x : Reg) (a : Byte)
  /-- `FETCH sX, (sY)` (R173) -/
  | fetchInd (x : Reg) (y : Reg)
  /-- `STORE sX, ss` (R174) -/
  | storeImm (x : Reg) (a : Byte)
  /-- `STORE sX, (sY)` (R175) -/
  | storeInd (x : Reg) (y : Reg)
  /-- `INPUT sX, pp` (R176) -/
  | inputImm (x : Reg) (p : Byte)
  /-- `INPUT sX, (sY)` (R177) -/
  | inputInd (x : Reg) (y : Reg)
  /-- `OUTPUT sX, pp` (R178) -/
  | outputImm (x : Reg) (p : Byte)
  /-- `OUTPUT sX, (sY)` (R179) -/
  | outputInd (x : Reg) (y : Reg)
  deriving DecidableEq, Repr

end Sys2Proof
end

