-- ==== Sys2Proof/WellFormed.lean ====
section
/-! DEFINITION. Well-formedness. Every operand of an `Instr` has exactly its field's width (a register index is a
`Fin 16`, a constant a `BitVec 8`), so every term of `Instr` is an instruction of the machine and the source's checks
of register index, port and immediate cannot fail (spec/60_exceptions.md rule R193). What CAN be ill formed is a word,
judged here from rule R88's own lists by arithmetic on numbers, independently of the decoder; a word's unexamined bits
(rules R89, R90); and the literal scratchpad address of a FETCH or STORE (rule R52). -/

namespace Sys2Proof

/-- The 29 illegal opcode groups (spec/30_encoding.md rule R88, item 1). -/
def illegalGroups : List Nat :=
  [0x02, 0x03, 0x08, 0x09, 0x10, 0x11, 0x16, 0x17, 0x21, 0x22, 0x23, 0x24, 0x25, 0x26, 0x27, 0x28, 0x29, 0x32, 0x33,
   0x36, 0x37, 0x38, 0x39, 0x3A, 0x3B, 0x3C, 0x3D, 0x3E, 0x3F]

/-- The six illegal selectors of group 0x20 (spec/30_encoding.md rule R88, item 2). -/
def illegalSelectors : List Nat := [0x1, 0x3, 0x5, 0x9, 0xB, 0xD]

/-- The conditional groups (spec/30_encoding.md rule R88, item 3). -/
def conditionalGroups : List Nat := [0x2B, 0x31, 0x35]

/-- Which of the three items of rule R88 a word falls under; none for a legal word. -/
def illegality (w : Word) : Option IllegalCause :=
  let g := w.toNat / 0x1000
  if g ∈ illegalGroups then some .group
  else if g = 0x20 ∧ w.toNat % 0x10 ∈ illegalSelectors then some .selector
  else if g ∈ conditionalGroups ∧ w.toNat / 0x100 % 4 ≠ 0 then some .condition
  else none

/-- A word is legal when no item of rule R88 names it. -/
def legalWord (w : Word) : Bool := illegality w == none

/-- The bits a word of this opcode group does not examine, as a mask (spec/30_encoding.md rule R89): `w[3:0]` in
format RR, `w[7:4]` in format SH, `w[11:8]` in format B, `w[11:0]` in format RT, `w[7:0]` in format RTC. -/
def unexaminedMask (w : Word) : Word :=
  let g := w.toNat / 0x1000
  if g ∈ [0x01, 0x05, 0x07, 0x0B, 0x0D, 0x0F, 0x13, 0x15, 0x19, 0x1B, 0x1D, 0x1F, 0x2D, 0x2F] then 0x0000F
  else if g = 0x20 then 0x000F0
  else if g ∈ [0x30, 0x34] then 0x00F00
  else if g = 0x2A then 0x00FFF
  else if g = 0x2B then 0x000FF
  else 0

/-- The canonical form of a word: its unexamined bits zero (spec/30_encoding.md rule R90). -/
def canonicalize (w : Word) : Word := w &&& ~~~ unexaminedMask w

/-- A legal word written as the assembler of rule R90 writes it. -/
def canonicalWord (w : Word) : Bool := legalWord w && canonicalize w == w

/-- The one bounds check a literal operand can fail: a scratchpad address above 63 (spec/20_memory.md rule R52).
An instruction that fails it is legal and faults when executed (spec/60_exceptions.md rule R192). -/
def literalInBounds : Instr → Bool
  | .fetchImm _ a => a.toNat < 64
  | .storeImm _ a => a.toNat < 64
  | _ => true

end Sys2Proof
end

