-- ==== Sys2Proof/Decode.lean ====
section
/-! DEFINITION. The decoder and the encoder (spec/30_encoding.md). `decode` is total on 18-bit words and rejects a word
that is no instruction by the cause of rule R88. `encode` writes the canonical word of an instruction, every bit the
instruction does not examine zero (rules R89, R90). -/

namespace Sys2Proof

/-! ## The fields of a word (rule R71) -/

/-- The opcode group, `w[17:12]` (R71, conflict C1). -/
def fieldGroup (w : Word) : BitVec 6 := w.extractLsb' 12 6

/-- The primary register index reg1, `w[11:8]` (R71). -/
def fieldReg1 (w : Word) : Reg := (w.extractLsb' 8 4).toFin

/-- The secondary register index reg2, `w[7:4]` (R71). -/
def fieldReg2 (w : Word) : Reg := (w.extractLsb' 4 4).toFin

/-- The immediate, scratchpad address, port address or branch target imm8, `w[7:0]` (R71, R74). -/
def fieldImm8 (w : Word) : Byte := w.extractLsb' 0 8

/-- The condition field: all of `w[11:8]`, of which four values are recognised (R77, conflict C5). -/
def fieldCond (w : Word) : BitVec 4 := w.extractLsb' 8 4

/-- The rotate and shift selector, `w[3:0]` (R81). -/
def fieldSelector (w : Word) : BitVec 4 := w.extractLsb' 0 4

/-! ## Decoding (rules R77, R80, R81, R88) -/

/-- Group 0x20: the ten selectors of rule R81, matched exactly (R82); the other six are illegal. -/
def decodeShift (x : Reg) (sel : BitVec 4) : Except IllegalCause Instr :=
  match sel with
  | 0x0#4 => .ok (.sla x)
  | 0x2#4 => .ok (.rl x)
  | 0x4#4 => .ok (.slx x)
  | 0x6#4 => .ok (.sl0 x)
  | 0x7#4 => .ok (.sl1 x)
  | 0x8#4 => .ok (.sra x)
  | 0xA#4 => .ok (.srx x)
  | 0xC#4 => .ok (.rr x)
  | 0xE#4 => .ok (.sr0 x)
  | 0xF#4 => .ok (.sr1 x)
  | _ => .error .selector

/-- A conditional group: the four recognised values of the condition field (R77) give the Z, NZ, C and NC
instruction in that order; the other twelve are illegal. -/
def decodeCond (f : BitVec 4) (iZ iNZ iC iNC : Instr) : Except IllegalCause Instr :=
  match f with
  | 0x0#4 => .ok iZ
  | 0x4#4 => .ok iNZ
  | 0x8#4 => .ok iC
  | 0xC#4 => .ok iNC
  | _ => .error .condition

/-- The opcode map (R80): the instruction a word is, or why it is none (R88). -/
def decode (w : Word) : Except IllegalCause Instr :=
  match fieldGroup w with
  | 0x00#6 => .ok (.loadImm (fieldReg1 w) (fieldImm8 w))
  | 0x01#6 => .ok (.loadReg (fieldReg1 w) (fieldReg2 w))
  | 0x04#6 => .ok (.inputImm (fieldReg1 w) (fieldImm8 w))
  | 0x05#6 => .ok (.inputInd (fieldReg1 w) (fieldReg2 w))
  | 0x06#6 => .ok (.fetchImm (fieldReg1 w) (fieldImm8 w))
  | 0x07#6 => .ok (.fetchInd (fieldReg1 w) (fieldReg2 w))
  | 0x0A#6 => .ok (.andImm (fieldReg1 w) (fieldImm8 w))
  | 0x0B#6 => .ok (.andReg (fieldReg1 w) (fieldReg2 w))
  | 0x0C#6 => .ok (.orImm (fieldReg1 w) (fieldImm8 w))
  | 0x0D#6 => .ok (.orReg (fieldReg1 w) (fieldReg2 w))
  | 0x0E#6 => .ok (.xorImm (fieldReg1 w) (fieldImm8 w))
  | 0x0F#6 => .ok (.xorReg (fieldReg1 w) (fieldReg2 w))
  | 0x12#6 => .ok (.testImm (fieldReg1 w) (fieldImm8 w))
  | 0x13#6 => .ok (.testReg (fieldReg1 w) (fieldReg2 w))
  | 0x14#6 => .ok (.compareImm (fieldReg1 w) (fieldImm8 w))
  | 0x15#6 => .ok (.compareReg (fieldReg1 w) (fieldReg2 w))
  | 0x18#6 => .ok (.addImm (fieldReg1 w) (fieldImm8 w))
  | 0x19#6 => .ok (.addReg (fieldReg1 w) (fieldReg2 w))
  | 0x1A#6 => .ok (.addcyImm (fieldReg1 w) (fieldImm8 w))
  | 0x1B#6 => .ok (.addcyReg (fieldReg1 w) (fieldReg2 w))
  | 0x1C#6 => .ok (.subImm (fieldReg1 w) (fieldImm8 w))
  | 0x1D#6 => .ok (.subReg (fieldReg1 w) (fieldReg2 w))
  | 0x1E#6 => .ok (.subcyImm (fieldReg1 w) (fieldImm8 w))
  | 0x1F#6 => .ok (.subcyReg (fieldReg1 w) (fieldReg2 w))
  | 0x20#6 => decodeShift (fieldReg1 w) (fieldSelector w)
  | 0x2A#6 => .ok .ret
  | 0x2B#6 => decodeCond (fieldCond w) .retZ .retNZ .retC .retNC
  | 0x2C#6 => .ok (.outputImm (fieldReg1 w) (fieldImm8 w))
  | 0x2D#6 => .ok (.outputInd (fieldReg1 w) (fieldReg2 w))
  | 0x2E#6 => .ok (.storeImm (fieldReg1 w) (fieldImm8 w))
  | 0x2F#6 => .ok (.storeInd (fieldReg1 w) (fieldReg2 w))
  | 0x30#6 => .ok (.call (fieldImm8 w))
  | 0x31#6 => decodeCond (fieldCond w) (.callZ (fieldImm8 w)) (.callNZ (fieldImm8 w)) (.callC (fieldImm8 w)) (.callNC (fieldImm8 w))
  | 0x34#6 => .ok (.jump (fieldImm8 w))
  | 0x35#6 => decodeCond (fieldCond w) (.jumpZ (fieldImm8 w)) (.jumpNZ (fieldImm8 w)) (.jumpC (fieldImm8 w)) (.jumpNC (fieldImm8 w))
  | _ => .error .group

/-! ## Encoding (rule R73) -/

/-- Format RI: group, reg1, imm8. -/
def formRI (g : BitVec 6) (x : Reg) (k : Byte) : Word := g ++ BitVec.ofFin (w := 4) x ++ k

/-- Format RR: group, reg1, reg2, and an unexamined nibble written zero. -/
def formRR (g : BitVec 6) (x y : Reg) : Word := g ++ BitVec.ofFin (w := 4) x ++ BitVec.ofFin (w := 4) y ++ 0#4

/-- Format SH: group 0x20, reg1, an unexamined nibble written zero, selector. -/
def formSH (x : Reg) (sel : BitVec 4) : Word := 0x20#6 ++ BitVec.ofFin (w := 4) x ++ 0#4 ++ sel

/-- Format B: group, an unexamined nibble written zero, target. -/
def formB (g : BitVec 6) (t : Byte) : Word := g ++ 0#4 ++ t

/-- Format BC: group, condition field, target. -/
def formBC (g : BitVec 6) (f : BitVec 4) (t : Byte) : Word := g ++ f ++ t

/-- Format RT: group 0x2A and twelve unexamined bits written zero. -/
def formRT : Word := 0x2A#6 ++ 0#12

/-- Format RTC: group 0x2B, condition field, eight unexamined bits written zero. -/
def formRTC (f : BitVec 4) : Word := 0x2B#6 ++ f ++ 0#8

/-- The canonical word of an instruction (R73, R80, R81, R90). -/
def encode : Instr → Word
  | .loadImm x k => formRI 0x00 x k
  | .loadReg x y => formRR 0x01 x y
  | .andImm x k => formRI 0x0A x k
  | .andReg x y => formRR 0x0B x y
  | .orImm x k => formRI 0x0C x k
  | .orReg x y => formRR 0x0D x y
  | .xorImm x k => formRI 0x0E x k
  | .xorReg x y => formRR 0x0F x y
  | .addImm x k => formRI 0x18 x k
  | .addReg x y => formRR 0x19 x y
  | .addcyImm x k => formRI 0x1A x k
  | .addcyReg x y => formRR 0x1B x y
  | .subImm x k => formRI 0x1C x k
  | .subReg x y => formRR 0x1D x y
  | .subcyImm x k => formRI 0x1E x k
  | .subcyReg x y => formRR 0x1F x y
  | .compareImm x k => formRI 0x14 x k
  | .compareReg x y => formRR 0x15 x y
  | .testImm x k => formRI 0x12 x k
  | .testReg x y => formRR 0x13 x y
  | .rl x => formSH x 0x2
  | .rr x => formSH x 0xC
  | .sl0 x => formSH x 0x6
  | .sl1 x => formSH x 0x7
  | .sla x => formSH x 0x0
  | .slx x => formSH x 0x4
  | .sr0 x => formSH x 0xE
  | .sr1 x => formSH x 0xF
  | .sra x => formSH x 0x8
  | .srx x => formSH x 0xA
  | .jump t => formB 0x34 t
  | .jumpZ t => formBC 0x35 0x0 t
  | .jumpNZ t => formBC 0x35 0x4 t
  | .jumpC t => formBC 0x35 0x8 t
  | .jumpNC t => formBC 0x35 0xC t
  | .call t => formB 0x30 t
  | .callZ t => formBC 0x31 0x0 t
  | .callNZ t => formBC 0x31 0x4 t
  | .callC t => formBC 0x31 0x8 t
  | .callNC t => formBC 0x31 0xC t
  | .ret => formRT
  | .retZ => formRTC 0x0
  | .retNZ => formRTC 0x4
  | .retC => formRTC 0x8
  | .retNC => formRTC 0xC
  | .fetchImm x a => formRI 0x06 x a
  | .fetchInd x y => formRR 0x07 x y
  | .storeImm x a => formRI 0x2E x a
  | .storeInd x y => formRR 0x2F x y
  | .inputImm x p => formRI 0x04 x p
  | .inputInd x y => formRR 0x05 x y
  | .outputImm x p => formRI 0x2C x p
  | .outputInd x y => formRR 0x2D x y

/-! ## The machine-readable table (rule R94) -/

/-- A row of spec/opcode_table.json: a word `w` is the row's instruction exactly when `w &&& mask = pattern`. -/
structure TableRow where
  mnemonic : String
  pattern : Word
  mask : Word
  deriving DecidableEq, Repr

/-- Whether a word matches a row (R94). -/
def rowMatches (row : TableRow) (w : Word) : Bool := w &&& row.mask == row.pattern

/-- The rows of spec/opcode_table.json for spec/40_alu.md. -/
def tableAlu : List TableRow := [
  ⟨"LOAD_sX__kk", 0x00000, 0x3F000⟩,
  ⟨"LOAD_sX__sY", 0x01000, 0x3F000⟩,
  ⟨"AND_sX__kk", 0x0A000, 0x3F000⟩,
  ⟨"AND_sX__sY", 0x0B000, 0x3F000⟩,
  ⟨"OR_sX__kk", 0x0C000, 0x3F000⟩,
  ⟨"OR_sX__sY", 0x0D000, 0x3F000⟩,
  ⟨"XOR_sX__kk", 0x0E000, 0x3F000⟩,
  ⟨"XOR_sX__sY", 0x0F000, 0x3F000⟩,
  ⟨"ADD_sX__kk", 0x18000, 0x3F000⟩,
  ⟨"ADD_sX__sY", 0x19000, 0x3F000⟩,
  ⟨"ADDCY_sX__kk", 0x1A000, 0x3F000⟩,
  ⟨"ADDCY_sX__sY", 0x1B000, 0x3F000⟩,
  ⟨"SUB_sX__kk", 0x1C000, 0x3F000⟩,
  ⟨"SUB_sX__sY", 0x1D000, 0x3F000⟩,
  ⟨"SUBCY_sX__kk", 0x1E000, 0x3F000⟩,
  ⟨"SUBCY_sX__sY", 0x1F000, 0x3F000⟩,
  ⟨"COMPARE_sX__kk", 0x14000, 0x3F000⟩,
  ⟨"COMPARE_sX__sY", 0x15000, 0x3F000⟩,
  ⟨"TEST_sX__kk", 0x12000, 0x3F000⟩,
  ⟨"TEST_sX__sY", 0x13000, 0x3F000⟩]

/-- The rows of spec/opcode_table.json for spec/41_shift_rotate.md. -/
def tableShift : List TableRow := [
  ⟨"RL_sX", 0x20002, 0x3F00F⟩,
  ⟨"RR_sX", 0x2000C, 0x3F00F⟩,
  ⟨"SL0_sX", 0x20006, 0x3F00F⟩,
  ⟨"SL1_sX", 0x20007, 0x3F00F⟩,
  ⟨"SLA_sX", 0x20000, 0x3F00F⟩,
  ⟨"SLX_sX", 0x20004, 0x3F00F⟩,
  ⟨"SR0_sX", 0x2000E, 0x3F00F⟩,
  ⟨"SR1_sX", 0x2000F, 0x3F00F⟩,
  ⟨"SRA_sX", 0x20008, 0x3F00F⟩,
  ⟨"SRX_sX", 0x2000A, 0x3F00F⟩]

/-- The rows of spec/opcode_table.json for spec/42_control_flow.md. -/
def tableControl : List TableRow := [
  ⟨"JUMP_aa", 0x34000, 0x3F000⟩,
  ⟨"JUMP_Z__aa", 0x35000, 0x3FF00⟩,
  ⟨"JUMP_NZ__aa", 0x35400, 0x3FF00⟩,
  ⟨"JUMP_C__aa", 0x35800, 0x3FF00⟩,
  ⟨"JUMP_NC__aa", 0x35C00, 0x3FF00⟩,
  ⟨"CALL_aa", 0x30000, 0x3F000⟩,
  ⟨"CALL_Z__aa", 0x31000, 0x3FF00⟩,
  ⟨"CALL_NZ__aa", 0x31400, 0x3FF00⟩,
  ⟨"CALL_C__aa", 0x31800, 0x3FF00⟩,
  ⟨"CALL_NC__aa", 0x31C00, 0x3FF00⟩,
  ⟨"RETURN", 0x2A000, 0x3F000⟩,
  ⟨"RETURN_Z", 0x2B000, 0x3FF00⟩,
  ⟨"RETURN_NZ", 0x2B400, 0x3FF00⟩,
  ⟨"RETURN_C", 0x2B800, 0x3FF00⟩,
  ⟨"RETURN_NC", 0x2BC00, 0x3FF00⟩]

/-- The rows of spec/opcode_table.json for spec/43_memory_port.md. -/
def tableMemoryPort : List TableRow := [
  ⟨"FETCH_sX__ss", 0x06000, 0x3F000⟩,
  ⟨"FETCH_sX___sY", 0x07000, 0x3F000⟩,
  ⟨"STORE_sX__ss", 0x2E000, 0x3F000⟩,
  ⟨"STORE_sX___sY", 0x2F000, 0x3F000⟩,
  ⟨"INPUT_sX__pp", 0x04000, 0x3F000⟩,
  ⟨"INPUT_sX___sY", 0x05000, 0x3F000⟩,
  ⟨"OUTPUT_sX__pp", 0x2C000, 0x3F000⟩,
  ⟨"OUTPUT_sX___sY", 0x2D000, 0x3F000⟩]

/-- All 53 rows (R94). -/
def opcodeTable : List TableRow := tableAlu ++ tableShift ++ tableControl ++ tableMemoryPort

/-- The row of an instruction (R94). -/
def rowOf : Instr → TableRow
  | .loadImm _ _ => ⟨"LOAD_sX__kk", 0x00000, 0x3F000⟩
  | .loadReg _ _ => ⟨"LOAD_sX__sY", 0x01000, 0x3F000⟩
  | .andImm _ _ => ⟨"AND_sX__kk", 0x0A000, 0x3F000⟩
  | .andReg _ _ => ⟨"AND_sX__sY", 0x0B000, 0x3F000⟩
  | .orImm _ _ => ⟨"OR_sX__kk", 0x0C000, 0x3F000⟩
  | .orReg _ _ => ⟨"OR_sX__sY", 0x0D000, 0x3F000⟩
  | .xorImm _ _ => ⟨"XOR_sX__kk", 0x0E000, 0x3F000⟩
  | .xorReg _ _ => ⟨"XOR_sX__sY", 0x0F000, 0x3F000⟩
  | .addImm _ _ => ⟨"ADD_sX__kk", 0x18000, 0x3F000⟩
  | .addReg _ _ => ⟨"ADD_sX__sY", 0x19000, 0x3F000⟩
  | .addcyImm _ _ => ⟨"ADDCY_sX__kk", 0x1A000, 0x3F000⟩
  | .addcyReg _ _ => ⟨"ADDCY_sX__sY", 0x1B000, 0x3F000⟩
  | .subImm _ _ => ⟨"SUB_sX__kk", 0x1C000, 0x3F000⟩
  | .subReg _ _ => ⟨"SUB_sX__sY", 0x1D000, 0x3F000⟩
  | .subcyImm _ _ => ⟨"SUBCY_sX__kk", 0x1E000, 0x3F000⟩
  | .subcyReg _ _ => ⟨"SUBCY_sX__sY", 0x1F000, 0x3F000⟩
  | .compareImm _ _ => ⟨"COMPARE_sX__kk", 0x14000, 0x3F000⟩
  | .compareReg _ _ => ⟨"COMPARE_sX__sY", 0x15000, 0x3F000⟩
  | .testImm _ _ => ⟨"TEST_sX__kk", 0x12000, 0x3F000⟩
  | .testReg _ _ => ⟨"TEST_sX__sY", 0x13000, 0x3F000⟩
  | .rl _ => ⟨"RL_sX", 0x20002, 0x3F00F⟩
  | .rr _ => ⟨"RR_sX", 0x2000C, 0x3F00F⟩
  | .sl0 _ => ⟨"SL0_sX", 0x20006, 0x3F00F⟩
  | .sl1 _ => ⟨"SL1_sX", 0x20007, 0x3F00F⟩
  | .sla _ => ⟨"SLA_sX", 0x20000, 0x3F00F⟩
  | .slx _ => ⟨"SLX_sX", 0x20004, 0x3F00F⟩
  | .sr0 _ => ⟨"SR0_sX", 0x2000E, 0x3F00F⟩
  | .sr1 _ => ⟨"SR1_sX", 0x2000F, 0x3F00F⟩
  | .sra _ => ⟨"SRA_sX", 0x20008, 0x3F00F⟩
  | .srx _ => ⟨"SRX_sX", 0x2000A, 0x3F00F⟩
  | .jump _ => ⟨"JUMP_aa", 0x34000, 0x3F000⟩
  | .jumpZ _ => ⟨"JUMP_Z__aa", 0x35000, 0x3FF00⟩
  | .jumpNZ _ => ⟨"JUMP_NZ__aa", 0x35400, 0x3FF00⟩
  | .jumpC _ => ⟨"JUMP_C__aa", 0x35800, 0x3FF00⟩
  | .jumpNC _ => ⟨"JUMP_NC__aa", 0x35C00, 0x3FF00⟩
  | .call _ => ⟨"CALL_aa", 0x30000, 0x3F000⟩
  | .callZ _ => ⟨"CALL_Z__aa", 0x31000, 0x3FF00⟩
  | .callNZ _ => ⟨"CALL_NZ__aa", 0x31400, 0x3FF00⟩
  | .callC _ => ⟨"CALL_C__aa", 0x31800, 0x3FF00⟩
  | .callNC _ => ⟨"CALL_NC__aa", 0x31C00, 0x3FF00⟩
  | .ret => ⟨"RETURN", 0x2A000, 0x3F000⟩
  | .retZ => ⟨"RETURN_Z", 0x2B000, 0x3FF00⟩
  | .retNZ => ⟨"RETURN_NZ", 0x2B400, 0x3FF00⟩
  | .retC => ⟨"RETURN_C", 0x2B800, 0x3FF00⟩
  | .retNC => ⟨"RETURN_NC", 0x2BC00, 0x3FF00⟩
  | .fetchImm _ _ => ⟨"FETCH_sX__ss", 0x06000, 0x3F000⟩
  | .fetchInd _ _ => ⟨"FETCH_sX___sY", 0x07000, 0x3F000⟩
  | .storeImm _ _ => ⟨"STORE_sX__ss", 0x2E000, 0x3F000⟩
  | .storeInd _ _ => ⟨"STORE_sX___sY", 0x2F000, 0x3F000⟩
  | .inputImm _ _ => ⟨"INPUT_sX__pp", 0x04000, 0x3F000⟩
  | .inputInd _ _ => ⟨"INPUT_sX___sY", 0x05000, 0x3F000⟩
  | .outputImm _ _ => ⟨"OUTPUT_sX__pp", 0x2C000, 0x3F000⟩
  | .outputInd _ _ => ⟨"OUTPUT_sX___sY", 0x2D000, 0x3F000⟩

/-! ## The host's question -/

/-- The instruction the decoder reads from an instruction whose bits are `w`, of which the table gives `nbits`.
One instruction is one 18-bit word, addressed as a unit (R53, R70); a number that does not fit in 18 bits is no word
of this machine (R93) and gives none (log 7). -/
def decodeTableWord (nbits w : Nat) : Option Instr :=
  let bits := w % 2 ^ nbits
  if bits < 2 ^ 18 then (decode (BitVec.ofNat 18 bits)).toOption else none

end Sys2Proof
end

