-- ==== Sys2Proof/Machine/State.lean ====
section
/-! DEFINITION. The state of the machine and the reasons a step can stop (spec/10_state.md, spec/60_exceptions.md). -/

namespace Sys2Proof.Machine

/-- Why a step aborts: the taxonomy of spec/60_exceptions.md rule R190. A fault leaves every piece of state as it was
(R195), so the outcome carries no state and its caller keeps the one it had (log 6). -/
inductive Fault where
  /-- Raised by `step` for a word that is no instruction (R191); carries the sub-cause (R190) and the
  word (DESIGN CHOICE, log 6). Safe: the spec names this fault. -/
  | illegalInstruction (cause : IllegalCause) (word : Word)
  /-- Raised by FETCH and STORE for an address above 63 (R192); carries the address, as R172 to R175 raise it. Safe: the spec
  names this fault. -/
  | scratchpadAddressOutOfRange (address : Byte)
  /-- Raised by nothing: a register index is a 4-bit field (R193). Safe. -/
  | registerIndexOutOfRange
  /-- Raised by nothing: a program address is always a 10-bit value (R193). Safe. -/
  | programAddressOutOfRange
  /-- Raised by nothing: a port address is an 8-bit value (R193). Safe. -/
  | portAddressOutOfRange
  /-- Raised by nothing: an immediate is an 8-bit value (R193). Safe. -/
  | immediateOutOfRange
  deriving DecidableEq, Repr

/-- Why an instruction has no meaning. -/
inductive Refusal where
  /-- Raised by `exec` for an instruction that has no meaning yet; no arm of this model answers with it. Safe: nothing
  follows from a refusal. -/
  | notModelled (mnemonic : String)
  deriving DecidableEq, Repr

/-- The scratchpad: the cells that do not hold 0x00, as (address, byte) pairs by rising address; a cell that is not
listed holds 0x00, its reset value (spec/10_state.md rules R31, R40). -/
abbrev Memory := List Host.Cell

/-- Program memory: the words the loader placed, by rising address; what an address that is not listed holds is not
known (spec/10_state.md rule R30). -/
abbrev ProgramMemory := List (Nat × Word)

/-- Everything the spec gives the machine, and what the model needs beside it: the program image and the port draws
are parameters of the spec's step (spec/10_state.md rules R30, R33, R35), held here because a step reads a state only
(logs 1 to 4). -/
structure State where
  /-- x[0] to x[15] (R20) -/
  regs : Vector Byte 16
  /-- the program counter: the address of the instruction the next step executes (R23) -/
  pc : Addr
  /-- the Zero flag (R26) -/
  z : Bool
  /-- the Carry flag (R26) -/
  c : Bool
  /-- the return-address stack (R28) -/
  stack : Vector Addr 31
  /-- the stack pointer, 0 to 30: the slot most recently pushed (R29) -/
  sp : Fin 31
  /-- the scratchpad (R31) -/
  scratch : Memory
  /-- program memory (R30); read only by instruction fetch, written by no instruction -/
  prog : ProgramMemory
  /-- the model's own: how many times the host has replaced program memory (log 3) -/
  loads : Nat
  /-- the model's own: what the port devices will answer to the next port reads, in order (log 1) -/
  portIn : List Byte
  /-- the model's own: the port accesses made so far, oldest first (R33, R57; log 2) -/
  portLog : List PortEvent
  deriving DecidableEq, Repr

/-- The machine right after power-on or reset (spec/10_state.md rule R40): all storage zero, execution from address 0.
No program is loaded and no port answer is waiting: those come from outside the core (log 4, log 1). -/
def State.reset : State where
  regs := Vector.replicate 16 0
  pc := 0
  z := false
  c := false
  stack := Vector.replicate 31 0
  sp := 0
  scratch := []
  prog := []
  loads := 0
  portIn := []
  portLog := []

end Sys2Proof.Machine
end

