-- ==== Sys2Proof/Machine/Ops.lean ====
section
/-! DEFINITION. The named operations over memory, registers, stack, program counter and ports, and taking a fault.
Every read and write of the state by an instruction's meaning goes through these. -/

namespace Sys2Proof.Machine

/-! ## Sparse memories -/

/-- The value listed at an address. -/
def lookupAt {α : Type} (a : Nat) : List (Nat × α) → Option α
  | [] => none
  | (b, v) :: rest => if b = a then some v else lookupAt a rest

/-- List a value at an address, keeping addresses rising. -/
def insertAt {α : Type} (a : Nat) (v : α) : List (Nat × α) → List (Nat × α)
  | [] => [(a, v)]
  | (b, u) :: rest =>
    if a < b then (a, v) :: (b, u) :: rest
    else if b = a then (a, v) :: rest
    else (b, u) :: insertAt a v rest

/-- List nothing at an address. -/
def eraseAt {α : Type} (a : Nat) (m : List (Nat × α)) : List (Nat × α) :=
  m.filter fun cell => cell.1 ≠ a

/-- Addresses strictly rise. -/
abbrev Rising {α : Type} (m : List (Nat × α)) : Prop := m.Pairwise fun p q => p.1 < q.1

/-! ## The scratchpad (spec/10_state.md rule R31, spec/20_memory.md rules R52, R57, R58) -/

/-- Read one cell; a cell that is not listed holds 0x00 (R40). -/
def Memory.read (m : Memory) (a : Nat) : Byte := (lookupAt a m).getD 0

/-- Write one cell; writing 0x00 removes the entry, so that equal scratchpads are equal lists. -/
def Memory.write (m : Memory) (a : Nat) (v : Byte) : Memory :=
  if v = 0 then eraseAt a m else insertAt a v m

/-- The canonical form: addresses strictly rising, all of them in 0..63 (R31), no entry 0x00. -/
abbrev Memory.wf (m : Memory) : Prop := Rising m ∧ ∀ cell ∈ m, cell.1 < 64 ∧ cell.2 ≠ 0

/-- `MemRead(a, 1)` (spec/00_scope.md rule R10). -/
def State.readCell (s : State) (a : Nat) : Byte := s.scratch.read a

/-- `MemWrite(a, 1, v)` (spec/00_scope.md rule R10). -/
def State.writeCell (s : State) (a : Nat) (v : Byte) : State := { s with scratch := s.scratch.write a v }

/-! ## Program memory (spec/10_state.md rule R30) -/

/-- The canonical form of an image: addresses strictly rising, all of them in 0..1023. Two images with the same
listed words are the same list; an unlisted address holds no known word. -/
abbrev ProgramMemory.wf (m : ProgramMemory) : Prop := Rising m ∧ ∀ cell ∈ m, cell.1 < 1024

/-- The word at a program address: the one loaded there, else whatever the memory holds, a free value (log 3). -/
def State.wordAt (s : State) (a : Addr) : Word := (lookupAt a.toNat s.prog).getD (Config.unloadedWord s.loads a)

/-- Fetch: `prog[pc]` (spec/70_reset_and_hazards.md rule R223). -/
def State.fetch (s : State) : Word := s.wordAt s.pc

/-- Place one word in program memory: the loader's act, no instruction's (log 4). -/
def State.placeWord (s : State) (a : Addr) (w : Word) : State := { s with prog := insertAt a.toNat w s.prog }

/-- Place the word a number stands for where the next fetch reads it; a number that does not fit in 18 bits is no
word and is not placed (spec/30_encoding.md rule R93; log 7). -/
def State.placeBits (s : State) (nbits w : Nat) : State :=
  let bits := w % 2 ^ nbits
  if bits < 2 ^ 18 then s.placeWord s.pc (BitVec.ofNat 18 bits) else s

/-! ## Registers, flags, program counter -/

/-- `x[r]`: no register is hard-wired or special (spec/10_state.md rule R20). -/
def State.readReg (s : State) (r : Reg) : Byte := s.regs[r]

/-- `x[r] <- v` (spec/10_state.md rule R21). -/
def State.writeReg (s : State) (r : Reg) (v : Byte) : State := { s with regs := s.regs.set r v }

/-- Write both flags; no instruction writes one without the other (spec/10_state.md rule R27). -/
def State.setFlags (s : State) (zero carry : Bool) : State := { s with z := zero, c := carry }

/-- `pc <- t` (spec/10_state.md rule R25). -/
def State.setPc (s : State) (t : Addr) : State := { s with pc := t }

/-- The sequential advance `pc <- (pc + 1) mod 1024`: ten bits wrap (spec/10_state.md rule R24). -/
def State.advance (s : State) : State := s.setPc (s.pc + 1)

/-- The program address of a branch target: `zext_10` of imm8 (spec/42_control_flow.md rule R153). -/
def targetAddr (t : Byte) : Addr := t.setWidth 10

/-! ## The return-address stack (spec/10_state.md rule R29) -/

/-- Push: `sp <- (sp + 1) mod 31`, then write the slot the new sp names. `Fin 31` addition is modulo 31, so a full
ring wraps silently (R29, R155). -/
def State.push (s : State) (a : Addr) : State :=
  { s with sp := s.sp + 1, stack := s.stack.set (s.sp + 1 : Fin 31) a }

/-- The most recently pushed entry, `stack[sp]`. -/
def State.top (s : State) : Addr := s.stack[s.sp]

/-- Pop: `sp <- (sp + 30) mod 31`; the slot keeps its value (spec/42_control_flow.md rule R157). -/
def State.pop (s : State) : State := { s with sp := s.sp + 30 }

/-! ## Ports (spec/10_state.md rule R33, spec/20_memory.md rule R57) -/

/-- What the device answers a read of port `p` now: the next waiting answer; when none waits, a free value of all
port events so far (log 1). -/
def State.portAnswer (s : State) (p : Byte) : Byte :=
  match s.portIn with
  | v :: _ => v
  | [] => Config.portDraw s.portLog p

/-- One call of the external read function: its answer is used up and the event recorded. -/
def State.portRead (s : State) (p : Byte) : State :=
  { s with portIn := s.portIn.tail, portLog := s.portLog ++ [.read p (s.portAnswer p)] }

/-- One call of the external write function: the event is recorded. -/
def State.portWrite (s : State) (p v : Byte) : State :=
  { s with portLog := s.portLog ++ [.write p v] }

/-! ## Outcomes -/

/-- What a step or a meaning answers. -/
abbrev Result := Host.Outcome State Fault Refusal

/-- Take a fault (spec/60_exceptions.md rules R194 to R196): the step ends, nothing is written or saved, no handler is
entered, and the kind is reported to the caller. The machine has no return from a fault (R197). -/
def raise (f : Fault) : Result := .fault f

end Sys2Proof.Machine
end

