-- ==== Sys2Proof/Machine/Operands.lean ====
section
/-! DEFINITION. Operand forms (spec/30_encoding.md rules R74, R76; spec/43_memory_port.md rule R170): a second operand,
a scratchpad address or a port address is the 8-bit immediate, or the value of the register reg2 names. There is no
other addressing mode. -/

namespace Sys2Proof.Machine

/-- Where a second operand, an address or a port number comes from. -/
inductive Src where
  /-- imm form, even opcode group: imm8 -/
  | imm (k : Byte)
  /-- reg form, odd opcode group: x[reg2] -/
  | reg (y : Reg)
  deriving DecidableEq, Repr

/-- The value of an operand, read before anything is written (spec/00_scope.md rule R11). It is unsigned and used
whole: no extension, scaling or modification of the register (R74, R170). -/
def Src.value (src : Src) (s : State) : Byte :=
  match src with
  | .imm k => k
  | .reg y => s.readReg y

/-- The scratchpad address decoder (R170, spec/20_memory.md rule R52): all 8 bits are checked, none is dropped. -/
def scratchAddressOk (ea : Byte) : Bool := ea.toNat < 64

end Sys2Proof.Machine
end

