-- ==== Sys2Proof/Machine/Flags.lean ====
section
/-! DEFINITION. The ALU function and the flags (spec/40_alu.md rule R100), and the conditions that read the flags
(spec/42_control_flow.md rule R151). Arithmetic is exact on integers and narrowed once at the end. -/

namespace Sys2Proof.Machine

/-- The operations of the ALU (R100). -/
inductive AluOp where
  | load | and | or | xor | add | addcy | sub | subcy | compare | test
  | rl | sl0 | sl1 | sla | slx | rr | sr0 | sr1 | sra | srx
  deriving DecidableEq, Repr

/-- A bit as an integer. -/
def bitInt (b : Bool) : Int := if b then 1 else 0

/-- The pre-mask result (R100, step 1): an integer, which may be negative or exceed 255. -/
def preMask (op : AluOp) (a b : Byte) (cin : Bool) : Int :=
  let ia : Int := a.toNat
  let ib : Int := b.toNat
  let bit0 : Int := bitInt (a.getLsbD 0)
  let bit7 : Int := bitInt (a.getLsbD 7)
  let carry : Int := bitInt cin
  match op with
  | .load => ib
  | .and | .test => ((a &&& b).toNat : Int)
  | .or => ((a ||| b).toNat : Int)
  | .xor => ((a ^^^ b).toNat : Int)
  | .add => ia + ib
  | .addcy => ia + ib + carry
  | .sub | .compare => ia - ib
  | .subcy => ia - ib - carry
  | .rl => 2 * ia + bit7
  | .sl0 => 2 * ia
  | .sl1 => 2 * ia + 1
  | .sla => 2 * ia + carry
  | .slx => 2 * ia + bit0
  | .rr => ia / 2 + 128 * bit0
  | .sr0 => ia / 2
  | .sr1 => ia / 2 + 128
  | .sra => ia / 2 + 128 * carry
  | .srx => ia / 2 + 128 * bit0

/-- Whether the operation takes the special carry rule: the five right rotates and shifts (R100, step 1). -/
def specialCarry : AluOp → Bool
  | .rr | .sr0 | .sr1 | .sra | .srx => true
  | .load | .and | .or | .xor | .add | .addcy | .sub | .subcy | .compare | .test => false
  | .rl | .sl0 | .sl1 | .sla | .slx => false

/-- What the ALU puts out. -/
structure AluOut where
  result : Byte
  zero : Bool
  carry : Bool
  deriving DecidableEq, Repr

/-- The result, `pre mod 256` (R100, step 2). -/
def maskResult (pre : Int) : Byte := BitVec.ofInt 8 pre

/-- The generic carry: bit 8 of the pre-mask result, a negative one read in two's complement (R100, step 3). -/
def genericCarry (pre : Int) : Bool := pre / 256 % 2 == 1

/-- The ALU (R100). -/
def alu (op : AluOp) (a b : Byte) (cin : Bool) : AluOut :=
  let pre := preMask op a b cin
  { result := maskResult pre
    zero := maskResult pre == 0
    carry := if specialCarry op then a.getLsbD 0 else genericCarry pre }

/-- Whether a condition holds, on the flags as they stand (spec/42_control_flow.md rule R151). -/
def condHolds (cc : Cond) (s : State) : Bool :=
  match cc with
  | .z => s.z
  | .nz => !s.z
  | .c => s.c
  | .nc => !s.c

end Sys2Proof.Machine
end

