-- ==== Sys2Proof/Machine/Alu.lean ====
section
/-! DEFINITION. LOAD, AND, OR, XOR, ADD, ADDCY, SUB, SUBCY, COMPARE, TEST (spec/40_alu.md). None of the twenty can fault
(rule R123). Each reads its operands from the state before the step and always writes both flags (rule R122). -/

namespace Sys2Proof.Machine

/-- An ALU instruction that writes its result back (R122): `x[X]`, Z, C, then the sequential advance. -/
def aluWrite (op : AluOp) (x : Reg) (src : Src) (s : State) : Result :=
  let out := alu op (s.readReg x) (src.value s) s.c
  .next ((s.writeReg x out.result).setFlags out.zero out.carry).advance

/-- COMPARE and TEST: the result is discarded, the flags are written (R122). -/
def aluDiscard (op : AluOp) (x : Reg) (src : Src) (s : State) : Result :=
  let out := alu op (s.readReg x) (src.value s) s.c
  .next (s.setFlags out.zero out.carry).advance

/-- `LOAD sX, kk` (40_alu R101). -/
def execLoadImm (x : Reg) (k : Byte) (s : State) : Result :=
  aluWrite .load x (.imm k) s

/-- `LOAD sX, sY` (40_alu R102). -/
def execLoadReg (x : Reg) (y : Reg) (s : State) : Result :=
  aluWrite .load x (.reg y) s

/-- `AND sX, kk` (40_alu R103). -/
def execAndImm (x : Reg) (k : Byte) (s : State) : Result :=
  aluWrite .and x (.imm k) s

/-- `AND sX, sY` (40_alu R104). -/
def execAndReg (x : Reg) (y : Reg) (s : State) : Result :=
  aluWrite .and x (.reg y) s

/-- `OR sX, kk` (40_alu R105). -/
def execOrImm (x : Reg) (k : Byte) (s : State) : Result :=
  aluWrite .or x (.imm k) s

/-- `OR sX, sY` (40_alu R106). -/
def execOrReg (x : Reg) (y : Reg) (s : State) : Result :=
  aluWrite .or x (.reg y) s

/-- `XOR sX, kk` (40_alu R107). -/
def execXorImm (x : Reg) (k : Byte) (s : State) : Result :=
  aluWrite .xor x (.imm k) s

/-- `XOR sX, sY` (40_alu R108). -/
def execXorReg (x : Reg) (y : Reg) (s : State) : Result :=
  aluWrite .xor x (.reg y) s

/-- `ADD sX, kk` (40_alu R109). -/
def execAddImm (x : Reg) (k : Byte) (s : State) : Result :=
  aluWrite .add x (.imm k) s

/-- `ADD sX, sY` (40_alu R110). -/
def execAddReg (x : Reg) (y : Reg) (s : State) : Result :=
  aluWrite .add x (.reg y) s

/-- `ADDCY sX, kk` (40_alu R111). -/
def execAddcyImm (x : Reg) (k : Byte) (s : State) : Result :=
  aluWrite .addcy x (.imm k) s

/-- `ADDCY sX, sY` (40_alu R112). -/
def execAddcyReg (x : Reg) (y : Reg) (s : State) : Result :=
  aluWrite .addcy x (.reg y) s

/-- `SUB sX, kk` (40_alu R113). -/
def execSubImm (x : Reg) (k : Byte) (s : State) : Result :=
  aluWrite .sub x (.imm k) s

/-- `SUB sX, sY` (40_alu R114). -/
def execSubReg (x : Reg) (y : Reg) (s : State) : Result :=
  aluWrite .sub x (.reg y) s

/-- `SUBCY sX, kk` (40_alu R115). -/
def execSubcyImm (x : Reg) (k : Byte) (s : State) : Result :=
  aluWrite .subcy x (.imm k) s

/-- `SUBCY sX, sY` (40_alu R116). -/
def execSubcyReg (x : Reg) (y : Reg) (s : State) : Result :=
  aluWrite .subcy x (.reg y) s

/-- `COMPARE sX, kk` (40_alu R117). -/
def execCompareImm (x : Reg) (k : Byte) (s : State) : Result :=
  aluDiscard .compare x (.imm k) s

/-- `COMPARE sX, sY` (40_alu R118). -/
def execCompareReg (x : Reg) (y : Reg) (s : State) : Result :=
  aluDiscard .compare x (.reg y) s

/-- `TEST sX, kk` (40_alu R119). -/
def execTestImm (x : Reg) (k : Byte) (s : State) : Result :=
  aluDiscard .test x (.imm k) s

/-- `TEST sX, sY` (40_alu R120). -/
def execTestReg (x : Reg) (y : Reg) (s : State) : Result :=
  aluDiscard .test x (.reg y) s

end Sys2Proof.Machine
end

