-- ==== Sys2Proof/Machine/Control.lean ====
section
/-! DEFINITION. JUMP, CALL, RETURN and their conditional forms (spec/42_control_flow.md). None touches a flag, a general
register, the scratchpad or a port (rule R150), and none can fault once decoded. A conditional instruction whose
condition is false only advances the program counter (rule R151). -/

namespace Sys2Proof.Machine

/-- Jump to a target (R152). -/
def jumpTo (t : Byte) (s : State) : Result := .next (s.setPc (targetAddr t))

/-- Call a target: push the address of the CALL itself, then jump (R154). -/
def callTo (t : Byte) (s : State) : Result := .next ((s.push s.pc).setPc (targetAddr t))

/-- Return: to the address after the one popped, ten bits wrapping (R156). -/
def returnToCaller (s : State) : Result := .next (s.pop.setPc (s.top + 1))

/-- Do the action when the condition holds, else only advance (R151). -/
def whenCond (cc : Cond) (action : State → Result) (s : State) : Result :=
  if condHolds cc s then action s else .next s.advance

/-- `JUMP aa` (42_control_flow R152). -/
def execJump (t : Byte) (s : State) : Result :=
  jumpTo t s

/-- `JUMP Z, aa` (42_control_flow R158). -/
def execJumpZ (t : Byte) (s : State) : Result :=
  whenCond .z (jumpTo t) s

/-- `JUMP NZ, aa` (42_control_flow R158). -/
def execJumpNZ (t : Byte) (s : State) : Result :=
  whenCond .nz (jumpTo t) s

/-- `JUMP C, aa` (42_control_flow R158). -/
def execJumpC (t : Byte) (s : State) : Result :=
  whenCond .c (jumpTo t) s

/-- `JUMP NC, aa` (42_control_flow R158). -/
def execJumpNC (t : Byte) (s : State) : Result :=
  whenCond .nc (jumpTo t) s

/-- `CALL aa` (42_control_flow R154). -/
def execCall (t : Byte) (s : State) : Result :=
  callTo t s

/-- `CALL Z, aa` (42_control_flow R159). -/
def execCallZ (t : Byte) (s : State) : Result :=
  whenCond .z (callTo t) s

/-- `CALL NZ, aa` (42_control_flow R159). -/
def execCallNZ (t : Byte) (s : State) : Result :=
  whenCond .nz (callTo t) s

/-- `CALL C, aa` (42_control_flow R159). -/
def execCallC (t : Byte) (s : State) : Result :=
  whenCond .c (callTo t) s

/-- `CALL NC, aa` (42_control_flow R159). -/
def execCallNC (t : Byte) (s : State) : Result :=
  whenCond .nc (callTo t) s

/-- `RETURN` (42_control_flow R156). -/
def execRet (s : State) : Result :=
  returnToCaller s

/-- `RETURN Z` (42_control_flow R160). -/
def execRetZ (s : State) : Result :=
  whenCond .z returnToCaller s

/-- `RETURN NZ` (42_control_flow R160). -/
def execRetNZ (s : State) : Result :=
  whenCond .nz returnToCaller s

/-- `RETURN C` (42_control_flow R160). -/
def execRetC (s : State) : Result :=
  whenCond .c returnToCaller s

/-- `RETURN NC` (42_control_flow R160). -/
def execRetNC (s : State) : Result :=
  whenCond .nc returnToCaller s

end Sys2Proof.Machine
end

