-- ==== Sys2Proof/Machine/MemoryPort.lean ====
section
/-! DEFINITION. FETCH, STORE, INPUT, OUTPUT (spec/43_memory_port.md). None reads or writes a flag (rule R171). FETCH and
STORE check the address before acting (rules R170, R171); INPUT and OUTPUT cannot fault and make one port access each. -/

namespace Sys2Proof.Machine

/-- FETCH: all 8 bits of `x[X]` are replaced by the cell (R172, R173). -/
def fetchCell (x : Reg) (src : Src) (s : State) : Result :=
  let ea := src.value s
  if scratchAddressOk ea then .next (s.writeReg x (s.readCell ea.toNat)).advance
  else raise (.scratchpadAddressOutOfRange ea)

/-- STORE: exactly one cell is written (R174, R175). -/
def storeCell (x : Reg) (src : Src) (s : State) : Result :=
  let ea := src.value s
  if scratchAddressOk ea then .next (s.writeCell ea.toNat (s.readReg x)).advance
  else raise (.scratchpadAddressOutOfRange ea)

/-- INPUT: one port read, whose answer replaces `x[X]` (R176, R177). -/
def inputPort (x : Reg) (src : Src) (s : State) : Result :=
  let p := src.value s
  .next ((s.portRead p).writeReg x (s.portAnswer p)).advance

/-- OUTPUT: one port write of `x[X]` (R178, R179). -/
def outputPort (x : Reg) (src : Src) (s : State) : Result :=
  .next (s.portWrite (src.value s) (s.readReg x)).advance

/-- `FETCH sX, ss` (43_memory_port R172). -/
def execFetchImm (x : Reg) (a : Byte) (s : State) : Result :=
  fetchCell x (.imm a) s

/-- `FETCH sX, (sY)` (43_memory_port R173). -/
def execFetchInd (x : Reg) (y : Reg) (s : State) : Result :=
  fetchCell x (.reg y) s

/-- `STORE sX, ss` (43_memory_port R174). -/
def execStoreImm (x : Reg) (a : Byte) (s : State) : Result :=
  storeCell x (.imm a) s

/-- `STORE sX, (sY)` (43_memory_port R175). -/
def execStoreInd (x : Reg) (y : Reg) (s : State) : Result :=
  storeCell x (.reg y) s

/-- `INPUT sX, pp` (43_memory_port R176). -/
def execInputImm (x : Reg) (p : Byte) (s : State) : Result :=
  inputPort x (.imm p) s

/-- `INPUT sX, (sY)` (43_memory_port R177). -/
def execInputInd (x : Reg) (y : Reg) (s : State) : Result :=
  inputPort x (.reg y) s

/-- `OUTPUT sX, pp` (43_memory_port R178). -/
def execOutputImm (x : Reg) (p : Byte) (s : State) : Result :=
  outputPort x (.imm p) s

/-- `OUTPUT sX, (sY)` (43_memory_port R179). -/
def execOutputInd (x : Reg) (y : Reg) (s : State) : Result :=
  outputPort x (.reg y) s

end Sys2Proof.Machine
end

