-- ==== Sys2Proof/Machine/Shift.lean ====
section
/-! DEFINITION. RL, RR, SL0, SL1, SLA, SLX, SR0, SR1, SRA, SRX (spec/41_shift_rotate.md): one register, source and
destination, moved by one bit position; both flags written (rule R130). -/

namespace Sys2Proof.Machine

/-- A rotate or shift (R130): the ALU on `x[X]` and Carry; the second ALU operand is unused (spec/40_alu.md rule R100). -/
def shiftWrite (op : AluOp) (x : Reg) (s : State) : Result :=
  let out := alu op (s.readReg x) 0 s.c
  .next ((s.writeReg x out.result).setFlags out.zero out.carry).advance

/-- `RL sX` (41_shift_rotate R131). -/
def execRl (x : Reg) (s : State) : Result :=
  shiftWrite .rl x s

/-- `RR sX` (41_shift_rotate R132). -/
def execRr (x : Reg) (s : State) : Result :=
  shiftWrite .rr x s

/-- `SL0 sX` (41_shift_rotate R133). -/
def execSl0 (x : Reg) (s : State) : Result :=
  shiftWrite .sl0 x s

/-- `SL1 sX` (41_shift_rotate R134). -/
def execSl1 (x : Reg) (s : State) : Result :=
  shiftWrite .sl1 x s

/-- `SLA sX` (41_shift_rotate R135). -/
def execSla (x : Reg) (s : State) : Result :=
  shiftWrite .sla x s

/-- `SLX sX` (41_shift_rotate R136). -/
def execSlx (x : Reg) (s : State) : Result :=
  shiftWrite .slx x s

/-- `SR0 sX` (41_shift_rotate R137). -/
def execSr0 (x : Reg) (s : State) : Result :=
  shiftWrite .sr0 x s

/-- `SR1 sX` (41_shift_rotate R138). -/
def execSr1 (x : Reg) (s : State) : Result :=
  shiftWrite .sr1 x s

/-- `SRA sX` (41_shift_rotate R139). -/
def execSra (x : Reg) (s : State) : Result :=
  shiftWrite .sra x s

/-- `SRX sX` (41_shift_rotate R140). -/
def execSrx (x : Reg) (s : State) : Result :=
  shiftWrite .srx x s

end Sys2Proof.Machine
end

