-- ==== Sys2Proof/Machine/Dispatch.lean ====
section
/-! DEFINITION. Dispatch: one arm per instruction, each one direct call of its meaning
(spec/70_reset_and_hazards.md rule R223). -/

namespace Sys2Proof.Machine

def exec (i : Instr) (s : State) : Host.Outcome State Fault Refusal :=
  match i with
  | .loadImm x k => Sys2Proof.Machine.execLoadImm x k s
  | .loadReg x y => Sys2Proof.Machine.execLoadReg x y s
  | .andImm x k => Sys2Proof.Machine.execAndImm x k s
  | .andReg x y => Sys2Proof.Machine.execAndReg x y s
  | .orImm x k => Sys2Proof.Machine.execOrImm x k s
  | .orReg x y => Sys2Proof.Machine.execOrReg x y s
  | .xorImm x k => Sys2Proof.Machine.execXorImm x k s
  | .xorReg x y => Sys2Proof.Machine.execXorReg x y s
  | .addImm x k => Sys2Proof.Machine.execAddImm x k s
  | .addReg x y => Sys2Proof.Machine.execAddReg x y s
  | .addcyImm x k => Sys2Proof.Machine.execAddcyImm x k s
  | .addcyReg x y => Sys2Proof.Machine.execAddcyReg x y s
  | .subImm x k => Sys2Proof.Machine.execSubImm x k s
  | .subReg x y => Sys2Proof.Machine.execSubReg x y s
  | .subcyImm x k => Sys2Proof.Machine.execSubcyImm x k s
  | .subcyReg x y => Sys2Proof.Machine.execSubcyReg x y s
  | .compareImm x k => Sys2Proof.Machine.execCompareImm x k s
  | .compareReg x y => Sys2Proof.Machine.execCompareReg x y s
  | .testImm x k => Sys2Proof.Machine.execTestImm x k s
  | .testReg x y => Sys2Proof.Machine.execTestReg x y s
  | .rl x => Sys2Proof.Machine.execRl x s
  | .rr x => Sys2Proof.Machine.execRr x s
  | .sl0 x => Sys2Proof.Machine.execSl0 x s
  | .sl1 x => Sys2Proof.Machine.execSl1 x s
  | .sla x => Sys2Proof.Machine.execSla x s
  | .slx x => Sys2Proof.Machine.execSlx x s
  | .sr0 x => Sys2Proof.Machine.execSr0 x s
  | .sr1 x => Sys2Proof.Machine.execSr1 x s
  | .sra x => Sys2Proof.Machine.execSra x s
  | .srx x => Sys2Proof.Machine.execSrx x s
  | .jump t => Sys2Proof.Machine.execJump t s
  | .jumpZ t => Sys2Proof.Machine.execJumpZ t s
  | .jumpNZ t => Sys2Proof.Machine.execJumpNZ t s
  | .jumpC t => Sys2Proof.Machine.execJumpC t s
  | .jumpNC t => Sys2Proof.Machine.execJumpNC t s
  | .call t => Sys2Proof.Machine.execCall t s
  | .callZ t => Sys2Proof.Machine.execCallZ t s
  | .callNZ t => Sys2Proof.Machine.execCallNZ t s
  | .callC t => Sys2Proof.Machine.execCallC t s
  | .callNC t => Sys2Proof.Machine.execCallNC t s
  | .ret => Sys2Proof.Machine.execRet s
  | .retZ => Sys2Proof.Machine.execRetZ s
  | .retNZ => Sys2Proof.Machine.execRetNZ s
  | .retC => Sys2Proof.Machine.execRetC s
  | .retNC => Sys2Proof.Machine.execRetNC s
  | .fetchImm x a => Sys2Proof.Machine.execFetchImm x a s
  | .fetchInd x y => Sys2Proof.Machine.execFetchInd x y s
  | .storeImm x a => Sys2Proof.Machine.execStoreImm x a s
  | .storeInd x y => Sys2Proof.Machine.execStoreInd x y s
  | .inputImm x p => Sys2Proof.Machine.execInputImm x p s
  | .inputInd x y => Sys2Proof.Machine.execInputInd x y s
  | .outputImm x p => Sys2Proof.Machine.execOutputImm x p s
  | .outputInd x y => Sys2Proof.Machine.execOutputInd x y s

end Sys2Proof.Machine
end

