-- ==== Sys2Proof/Machine/Step.lean ====
section
/-! DEFINITION. The step cycle (spec/70_reset_and_hazards.md rules R223, R224): fetch the word at the program counter,
decode it, and execute the instruction, or fault when the word is none (spec/60_exceptions.md rule R191). One step is
one instruction, indivisible. The sequential advance is part of each meaning. -/

namespace Sys2Proof.Machine

/-- One step. -/
def step (s : State) : Host.Outcome State Fault Refusal :=
  match decode s.fetch with
  | .ok i => exec i s
  | .error cause => raise (.illegalInstruction cause s.fetch)

/-- `s` with the instruction whose bits are `w`, of which the table gives `nbits`, placed where the next step fetches
(log 4, log 7). -/
def State.withFetchWord (s : State) (nbits w : Nat) : State := s.placeBits nbits w

end Sys2Proof.Machine
end

