-- ==== Sys2Proof/Machine/HostSide.lean ====
section
/-! DEFINITION. What the outside can do to the core at a step boundary (spec/70_reset_and_hazards.md rules R220, R221, R229
to R232; spec/10_state.md rules R36, R37), and what a caller of the step sees (spec/60_exceptions.md rules R195 to R197).
None of it is part of `step` (log 5). -/

namespace Sys2Proof.Machine

/-! ## Observation (R37) -/

/-- What the core shows between steps: register file, scratchpad, call stack and pointer, program counter, flags. -/
structure Observation where
  regs : Vector Byte 16
  scratch : Memory
  stack : Vector Addr 31
  sp : Fin 31
  pc : Addr
  z : Bool
  c : Bool
  deriving DecidableEq, Repr

/-- The observation interface (R37). -/
def State.observe (s : State) : Observation :=
  { regs := s.regs, scratch := s.scratch, stack := s.stack, sp := s.sp, pc := s.pc, z := s.z, c := s.c }

/-! ## Host moves between steps -/

/-- A part of the core state that a partial clear zeroes (R221). -/
inductive CorePart where
  | registers | flags | programCounter | returnStack | scratchpad
  deriving DecidableEq, Repr

/-- The host's moves (decision D17). There is no move inside a step (R236; spec/93_implementation_defined.md U1, U2). -/
inductive HostMove where
  /-- the reset input, sampled at a step boundary (R220) -/
  | reset
  /-- program memory replaced wholesale (R232) -/
  | load (image : ProgramMemory)
  /-- zeros written to one part of the core state (R221; DESIGN CHOICE, log 5) -/
  | clear (part : CorePart)
  /-- one register overwritten (R231) -/
  | inject (r : Reg) (v : Byte)
  deriving DecidableEq, Repr

/-- Reset: every piece of core state zero; program memory and the ports are not the core's to reset (R220, R40). -/
def State.hostReset (s : State) : State :=
  { State.reset with prog := s.prog, loads := s.loads, portIn := s.portIn, portLog := s.portLog }

/-- A partial clear: the part holds its reset value, all else is as before (R221, R40). -/
def State.clearPart (s : State) (part : CorePart) : State :=
  match part with
  | .registers => { s with regs := State.reset.regs }
  | .flags => s.setFlags State.reset.z State.reset.c
  | .programCounter => s.setPc State.reset.pc
  | .returnStack => { s with stack := State.reset.stack, sp := State.reset.sp }
  | .scratchpad => { s with scratch := State.reset.scratch }

/-- Replace program memory; pc and all other state keep their values (R232). Words the new image does not list are
not known: their free values may differ from those before (log 3). -/
def State.hostLoad (s : State) (image : ProgramMemory) : State :=
  { s with prog := image, loads := s.loads + 1 }

/-- A host move; none for an image that is no image of the machine, listed out of order or beyond address 1023. -/
def applyHost (m : HostMove) (s : State) : Option State :=
  match m with
  | .reset => some s.hostReset
  | .clear part => some (s.clearPart part)
  | .load image => if ProgramMemory.wf image then some (s.hostLoad image) else none
  | .inject r v => some (s.writeReg r v)

/-! ## The caller of a step -/

/-- Why a run stopped. -/
inductive StopReason where
  | fault (f : Fault)
  | refused (r : Refusal)
  /-- the host asked for a move the model gives no meaning to -/
  | noSuchMove
  deriving DecidableEq, Repr

/-- One call of `step()` as its caller sees it: the state afterwards and the fault output (R36). On a fault the state
is the one before (R195). -/
def stepCall (s : State) : State × Option StopReason :=
  match step s with
  | .next t => (t, none)
  | .fault f => (s, some (.fault f))
  | .refused r => (s, some (.refused r))

/-- `run()` (R229): the host's flag is cleared after `n` steps, or a step faults, which stops the loop; it never
retries (R196). -/
def runLoop (n : Nat) (s : State) : State × Option StopReason :=
  match n with
  | 0 => (s, none)
  | n + 1 =>
    match stepCall s with
    | (t, none) => runLoop n t
    | (t, some why) => (t, some why)

/-- What happens at a step boundary. -/
inductive HostEvent where
  | step
  | move (m : HostMove)
  deriving DecidableEq, Repr

/-- A session: steps and host moves in any order, ended by the first fault. -/
def session (events : List HostEvent) (s : State) : State × Option StopReason :=
  match events with
  | [] => (s, none)
  | .step :: rest =>
    match stepCall s with
    | (t, none) => session rest t
    | (t, some why) => (t, some why)
  | .move m :: rest =>
    match applyHost m s with
    | some t => session rest t
    | none => (s, some .noSuchMove)

end Sys2Proof.Machine
end

