-- ==== Sys2Proof/Machine/Loader.lean ====
section
/-! DEFINITION. The program text format (spec/30_encoding.md rule R92). The loader is out of scope
(spec/00_scope.md rule R4); its format is modelled so that a program written in it has one image. Where rule R92 does not
say what the loader does, this reader refuses the text (log 8). -/

namespace Sys2Proof.Machine

/-- A base-16 digit, of either letter case (log 8). -/
def hexDigit (ch : Char) : Option Nat :=
  let n := ch.toNat
  if 48 ≤ n ∧ n ≤ 57 then some (n - 48)
  else if 65 ≤ n ∧ n ≤ 70 then some (n - 55)
  else if 97 ≤ n ∧ n ≤ 102 then some (n - 87)
  else none

/-- The rest of a base-16 integer, most significant digit first. -/
def hexDigits (acc : Nat) : List Char → Option Nat
  | [] => some acc
  | ch :: rest => (hexDigit ch).bind fun d => hexDigits (16 * acc + d) rest

/-- A line that holds no token: empty, or starting with `@` or `;` (R92). -/
def ignoredLine : List Char → Bool
  | [] => true
  | ch :: _ => ch == '@' || ch == ';'

/-- The word a token stands for; none when it does not fit in 18 bits (R93, spec/93_implementation_defined.md U6). -/
def tokenWord (line : List Char) : Option Word :=
  (hexDigits 0 line).bind fun n => if n < 2 ^ 18 then some (BitVec.ofNat 18 n) else none

/-- Cut a text into lines at line feeds; `acc` holds the current line backwards. -/
def linesFrom (acc : List Char) : List Char → List (List Char)
  | [] => [acc.reverse]
  | ch :: rest => if ch = '\n' then acc.reverse :: linesFrom [] rest else linesFrom (ch :: acc) rest

/-- The words of the lines that hold a token, in order; none when one of them is no 18-bit word. -/
def wordsOfLines : List (List Char) → Option (List Word)
  | [] => some []
  | line :: rest =>
    if ignoredLine line then wordsOfLines rest
    else (tokenWord line).bind fun w => (wordsOfLines rest).map fun ws => w :: ws

/-- The words a program text stands for: at most 1024 (R92). -/
def wordsOfText (text : List Char) : Option (List Word) :=
  (wordsOfLines (linesFrom [] text)).bind fun ws => if ws.length ≤ 1024 then some ws else none

/-- Words placed one after another from an address upward. -/
def imageFrom (a : Nat) : List Word → ProgramMemory
  | [] => []
  | w :: rest => (a, w) :: imageFrom (a + 1) rest

/-- Load a program text: its n-th token is the word at program address n (R92). -/
def loadText (text : List Char) (s : State) : Option State :=
  (wordsOfText text).bind fun ws => applyHost (.load (imageFrom 0 ws)) s

end Sys2Proof.Machine
end

