-- ==== Sys2Proof/Safety.lean ====
section
/-! DEFINITION. The terms claims are stated in: the invariant of the state, what counts as a safe run, and the spec's
own tables of what each instruction may touch, written from the rules that list them and not from the meanings. -/

namespace Sys2Proof.Machine

/-! ## Good states and safe runs -/

/-- Both sparse memories are in canonical form. Every other bound of the state (pc below 1024, sp below 31, bytes of
8 bits) holds by its type. -/
abbrev State.Inv (s : State) : Prop := Memory.wf s.scratch ∧ ProgramMemory.wf s.prog

/-- No step of the first `n` from `s` faults (spec/60_exceptions.md rule R197: something to prove of a program). -/
abbrev SafeRun (n : Nat) (s : State) : Prop := (runLoop n s).2 = none

/-- `pc` addresses a JUMP to itself: the end of a program, by the spec's convention
(spec/70_reset_and_hazards.md rule R230). -/
abbrev AtSelfJump (s : State) : Prop := ∃ t, decode s.fetch = .ok (.jump t) ∧ targetAddr t = s.pc

/-- Do one instruction `n` times over. -/
def execRepeat (n : Nat) (i : Instr) (s : State) : Result :=
  match n with
  | 0 => .next s
  | n + 1 =>
    match exec i s with
    | .next t => execRepeat n i t
    | .fault f => .fault f
    | .refused r => .refused r

/-- Change the next state of an outcome; a stop stays as it is. -/
def mapNext (f : State → State) : Result → Result
  | .next t => .next (f t)
  | .fault e => .fault e
  | .refused r => .refused r

/-! ## Parts of the state -/

/-- Program memory, its replacements, and the port draws and events are as before. -/
abbrev SameOutside (s t : State) : Prop :=
  t.prog = s.prog ∧ t.loads = s.loads ∧ t.portIn = s.portIn ∧ t.portLog = s.portLog

/-- General registers, flags and scratchpad are as before. -/
abbrev SameData (s t : State) : Prop :=
  t.regs = s.regs ∧ t.z = s.z ∧ t.c = s.c ∧ t.scratch = s.scratch

/-- Stack and stack pointer are as before. -/
abbrev SameRing (s t : State) : Prop := t.sp = s.sp ∧ t.stack = s.stack

/-! ## Next states, as the rules' pseudocode writes them -/

/-- `x[X] <- r; Z <- zero; C <- carry; pc <- (pc + 1) mod 1024` and nothing else (spec/40_alu.md rule R122). -/
def State.afterResult (s : State) (x : Reg) (r : Byte) (zero carry : Bool) : State :=
  { s with regs := s.regs.set x r, z := zero, c := carry, pc := s.pc + 1 }

/-- `x[X] <- t mod 256; Z <- (t mod 256 = 0); C <- carry; pc <- (pc + 1) mod 1024` and nothing else
(spec/40_alu.md rules R109 to R116). -/
def State.afterArith (s : State) (x : Reg) (t : Int) (carry : Bool) : State :=
  s.afterResult x (BitVec.ofInt 8 t) (decide (t % 256 = 0)) carry

/-- `Z <- zero; C <- carry; pc <- (pc + 1) mod 1024` and nothing else (spec/40_alu.md rule R122). -/
def State.afterCompare (s : State) (zero carry : Bool) : State :=
  { s with z := zero, c := carry, pc := s.pc + 1 }

/-- `pc <- zext_10(t)` and nothing else (spec/42_control_flow.md rule R152). -/
def State.afterJump (s : State) (t : Byte) : State := { s with pc := BitVec.ofNat 10 t.toNat }

/-- `sp <- (sp + 1) mod 31; stack[(sp + 1) mod 31] <- pc; pc <- zext_10(t)` and nothing else
(spec/42_control_flow.md rules R154, R159). -/
def State.afterCall (s : State) (t : Byte) : State :=
  { s with
    sp := ⟨(s.sp.val + 1) % 31, Nat.mod_lt _ (by decide)⟩
    stack := s.stack.set ((s.sp.val + 1) % 31) s.pc (Nat.mod_lt _ (by decide))
    pc := BitVec.ofNat 10 t.toNat }

/-- `pc <- (stack[sp] + 1) mod 1024; sp <- (sp + 30) mod 31` and nothing else
(spec/42_control_flow.md rules R156, R160). -/
def State.afterReturn (s : State) : State :=
  { s with
    pc := BitVec.ofNat 10 (s.stack[s.sp].toNat + 1)
    sp := ⟨(s.sp.val + 30) % 31, Nat.mod_lt _ (by decide)⟩ }

/-- `pc <- (pc + 1) mod 1024` and nothing else (spec/10_state.md rule R24). -/
def State.afterAdvance (s : State) : State := { s with pc := BitVec.ofNat 10 (s.pc.toNat + 1) }

/-! ## What each instruction may touch, as the spec's tables list it -/

/-- The register an instruction writes (spec/10_state.md rule R21). -/
def destination : Instr → Option Reg
  | .loadImm x _ | .loadReg x _ | .andImm x _ | .andReg x _ | .orImm x _ | .orReg x _ | .xorImm x _ | .xorReg x _ => some x
  | .addImm x _ | .addReg x _ | .addcyImm x _ | .addcyReg x _ => some x
  | .subImm x _ | .subReg x _ | .subcyImm x _ | .subcyReg x _ => some x
  | .rl x | .rr x | .sl0 x | .sl1 x | .sla x | .slx x | .sr0 x | .sr1 x | .sra x | .srx x => some x
  | .fetchImm x _ | .fetchInd x _ | .inputImm x _ | .inputInd x _ => some x
  | .compareImm _ _ | .compareReg _ _ | .testImm _ _ | .testReg _ _ => none
  | .storeImm _ _ | .storeInd _ _ | .outputImm _ _ | .outputInd _ _ => none
  | .jump _ | .jumpZ _ | .jumpNZ _ | .jumpC _ | .jumpNC _ => none
  | .call _ | .callZ _ | .callNZ _ | .callC _ | .callNC _ => none
  | .ret | .retZ | .retNZ | .retC | .retNC => none

/-- Whether an instruction is of the ALU class, which writes both flags; the others write neither
(spec/10_state.md rule R27). -/
def writesFlags : Instr → Bool
  | .loadImm _ _ | .loadReg _ _ | .andImm _ _ | .andReg _ _ | .orImm _ _ | .orReg _ _ | .xorImm _ _ | .xorReg _ _ => true
  | .addImm _ _ | .addReg _ _ | .addcyImm _ _ | .addcyReg _ _ => true
  | .subImm _ _ | .subReg _ _ | .subcyImm _ _ | .subcyReg _ _ => true
  | .compareImm _ _ | .compareReg _ _ | .testImm _ _ | .testReg _ _ => true
  | .rl _ | .rr _ | .sl0 _ | .sl1 _ | .sla _ | .slx _ | .sr0 _ | .sr1 _ | .sra _ | .srx _ => true
  | .fetchImm _ _ | .fetchInd _ _ | .storeImm _ _ | .storeInd _ _ => false
  | .inputImm _ _ | .inputInd _ _ | .outputImm _ _ | .outputInd _ _ => false
  | .jump _ | .jumpZ _ | .jumpNZ _ | .jumpC _ | .jumpNC _ => false
  | .call _ | .callZ _ | .callNZ _ | .callC _ | .callNC _ => false
  | .ret | .retZ | .retNZ | .retC | .retNC => false

/-- The condition a conditional instruction tests (spec/30_encoding.md rule R77). -/
def conditionOf : Instr → Option Cond
  | .jumpZ _ | .callZ _ | .retZ => some .z
  | .jumpNZ _ | .callNZ _ | .retNZ => some .nz
  | .jumpC _ | .callC _ | .retC => some .c
  | .jumpNC _ | .callNC _ | .retNC => some .nc
  | .loadImm _ _ | .loadReg _ _ | .andImm _ _ | .andReg _ _ | .orImm _ _ | .orReg _ _ | .xorImm _ _ | .xorReg _ _ => none
  | .addImm _ _ | .addReg _ _ | .addcyImm _ _ | .addcyReg _ _ => none
  | .subImm _ _ | .subReg _ _ | .subcyImm _ _ | .subcyReg _ _ => none
  | .compareImm _ _ | .compareReg _ _ | .testImm _ _ | .testReg _ _ => none
  | .rl _ | .rr _ | .sl0 _ | .sl1 _ | .sla _ | .slx _ | .sr0 _ | .sr1 _ | .sra _ | .srx _ => none
  | .fetchImm _ _ | .fetchInd _ _ | .storeImm _ _ | .storeInd _ _ => none
  | .inputImm _ _ | .inputInd _ _ | .outputImm _ _ | .outputInd _ _ => none
  | .jump _ | .call _ | .ret => none

/-- Whether an instruction reads Z: the Z and NZ forms (spec/10_state.md rule R27). -/
def readsZ (i : Instr) : Bool := conditionOf i == some .z || conditionOf i == some .nz

/-- Whether an instruction reads C: ADDCY, SUBCY, SLA, SRA and the C and NC forms (spec/10_state.md rule R27). -/
def readsC (i : Instr) : Bool :=
  match i with
  | .addcyImm _ _ | .addcyReg _ _ | .subcyImm _ _ | .subcyReg _ _ | .sla _ | .sra _ => true
  | _ => conditionOf i == some .c || conditionOf i == some .nc

/-- The kinds of control flow (spec/42_control_flow.md). -/
inductive Transfer where
  | jump | call | ret
  deriving DecidableEq, Repr

/-- The transfer a control-flow instruction makes; none for every other instruction. -/
def transferOf : Instr → Option Transfer
  | .jump _ | .jumpZ _ | .jumpNZ _ | .jumpC _ | .jumpNC _ => some .jump
  | .call _ | .callZ _ | .callNZ _ | .callC _ | .callNC _ => some .call
  | .ret | .retZ | .retNZ | .retC | .retNC => some .ret
  | .loadImm _ _ | .loadReg _ _ | .andImm _ _ | .andReg _ _ | .orImm _ _ | .orReg _ _ | .xorImm _ _ | .xorReg _ _ => none
  | .addImm _ _ | .addReg _ _ | .addcyImm _ _ | .addcyReg _ _ => none
  | .subImm _ _ | .subReg _ _ | .subcyImm _ _ | .subcyReg _ _ => none
  | .compareImm _ _ | .compareReg _ _ | .testImm _ _ | .testReg _ _ => none
  | .rl _ | .rr _ | .sl0 _ | .sl1 _ | .sla _ | .slx _ | .sr0 _ | .sr1 _ | .sra _ | .srx _ => none
  | .fetchImm _ _ | .fetchInd _ _ | .storeImm _ _ | .storeInd _ _ => none
  | .inputImm _ _ | .inputInd _ _ | .outputImm _ _ | .outputInd _ _ => none

/-- The transfer an instruction makes from a state: none when its condition is false
(spec/42_control_flow.md rule R151). -/
def takenTransfer (i : Instr) (s : State) : Option Transfer :=
  match conditionOf i with
  | none => transferOf i
  | some cc => if condHolds cc s then transferOf i else none

/-- The scratchpad address a FETCH or STORE uses (spec/43_memory_port.md rule R170). -/
def scratchAddress (i : Instr) (s : State) : Option Byte :=
  match i with
  | .fetchImm _ a | .storeImm _ a => some (Src.value (.imm a) s)
  | .fetchInd _ y | .storeInd _ y => some (Src.value (.reg y) s)
  | _ => none

/-- The cell an instruction stores to: the effective address of a STORE (spec/43_memory_port.md rules R174, R175). -/
def storedCell (i : Instr) (s : State) : Option Nat :=
  match i with
  | .storeImm _ a => some (Src.value (.imm a) s).toNat
  | .storeInd _ y => some (Src.value (.reg y) s).toNat
  | _ => none

/-- The port event an instruction makes (spec/20_memory.md rule R57). -/
def portEventOf (i : Instr) (s : State) : Option PortEvent :=
  match i with
  | .inputImm _ p => some (.read (Src.value (.imm p) s) (s.portAnswer (Src.value (.imm p) s)))
  | .inputInd _ y => some (.read (Src.value (.reg y) s) (s.portAnswer (Src.value (.reg y) s)))
  | .outputImm x p => some (.write (Src.value (.imm p) s) (s.readReg x))
  | .outputInd x y => some (.write (Src.value (.reg y) s) (s.readReg x))
  | _ => none

/-! ## The checks of a step (spec/70_reset_and_hazards.md rule R223) -/

/-- The fault the checks of rule R223 report for a state, in its order, on the numbers it names; none when all pass. -/
def faultOfChecks (s : State) : Option Fault :=
  let w := s.fetch.toNat
  let g := w / 0x1000
  let k : Byte := BitVec.ofNat 8 (w % 0x100)
  let r2 : Reg := ⟨w / 0x10 % 0x10, Nat.mod_lt _ (by decide)⟩
  if g ∈ illegalGroups then some (.illegalInstruction .group s.fetch)
  else if g = 0x20 ∧ w % 0x10 ∈ illegalSelectors then some (.illegalInstruction .selector s.fetch)
  else if g ∈ conditionalGroups ∧ w / 0x100 % 0x10 ∉ [0x0, 0x4, 0x8, 0xC] then
    some (.illegalInstruction .condition s.fetch)
  else if g ∈ [0x06, 0x2E] ∧ 63 < k.toNat then some (.scratchpadAddressOutOfRange k)
  else if g ∈ [0x07, 0x2F] ∧ 63 < (s.readReg r2).toNat then some (.scratchpadAddressOutOfRange (s.readReg r2))
  else none

/-! ## The return-address ring over runs (spec/42_control_flow.md rule R155) -/

/-- How a transfer moves the number of live entries. -/
def ringMove : Option Transfer → Int
  | some .call => 1
  | some .ret => -1
  | some .jump => 0
  | none => 0

/-- The instruction a state executes next, if its word is one. -/
def nextInstr (s : State) : Option Instr := (decode s.fetch).toOption

/-- Calls executed minus returns executed in the first `n` steps of a run. -/
def netCalls (n : Nat) (s : State) : Int :=
  match n with
  | 0 => 0
  | n + 1 =>
    (match nextInstr s with
      | some i => ringMove (takenTransfer i s)
      | none => 0) + netCalls n (stepCall s).1

/-- Execute `CALL t` at each of these program addresses in turn. -/
def callFrom (t : Byte) (sites : List Addr) (s : State) : Result :=
  match sites with
  | [] => .next s
  | a :: rest =>
    match exec (.call t) (s.setPc a) with
    | .next u => callFrom t rest u
    | .fault f => .fault f
    | .refused r => .refused r

/-- Execute RETURN `n` times and list the addresses it resumes at. -/
def returnAddrs (n : Nat) (s : State) : List Addr :=
  match n with
  | 0 => []
  | n + 1 =>
    match exec .ret s with
    | .next t => t.pc :: returnAddrs n t
    | .fault _ => []
    | .refused _ => []

end Sys2Proof.Machine
end

