-- ==== Sys2Proof/Certificates/Slice0/Obligations.lean ====
section
/-! DEFINITION. The statements for the provers, in the order of OBLIGATIONS.json. Each docstring names the rule or
section of spec/ it rests on, and the decision or log entry where a clause is not the source's own. -/

open Sys2Proof Sys2Proof.Machine

/-- Reset leaves every register, flag, stack slot, scratchpad cell, sp and pc zero and program memory alone. (R40) -/
def Obligations.ResetClearsEverything : Prop :=
  (∀ s t : State, t = State.reset ∨ t = s.hostReset →
    (∀ r : Reg, t.readReg r = 0) ∧ t.pc = 0 ∧ t.z = false ∧ t.c = false ∧ (∀ k : Fin 31, t.stack[k] = 0) ∧ t.sp = 0 ∧
      (∀ a, a < 64 → t.readCell a = 0) ∧ t.fetch = t.wordAt 0) ∧
  ∀ s : State, applyHost .reset s = some s.hostReset ∧ ∀ a, s.hostReset.wordAt a = s.wordAt a

/-- Decoding the canonical word of any instruction gives the instruction back. (30_encoding.md R73, 30_encoding.md R80, 30_encoding.md R81) -/
def Obligations.DecodeEncodeIsIdentity : Prop :=
  ∀ i : Instr, decode (encode i) = .ok i

/-- Encoding what a legal word decodes to gives that word with its unexamined bits cleared. (30_encoding.md R89, 30_encoding.md R90, 92_eei_decisions.md D4) -/
def Obligations.EncodeDecodeIsCanonicalWord : Prop :=
  ∀ (w : Word) (i : Instr), decode w = .ok i → encode i = canonicalize w

/-- Bits an instruction does not use never change what a word decodes to. (30_encoding.md R89, 92_eei_decisions.md D4) -/
def Obligations.DecodeIgnoresUnexaminedBits : Prop :=
  ∀ v w : Word, canonicalize v = canonicalize w → decode v = decode w

/-- A word is rejected exactly when an item of the list of illegal encodings names it, with that cause. (30_encoding.md R88, 60_exceptions.md R190) -/
def Obligations.DecodeRejectsExactlyIllegalWords : Prop :=
  ∀ w : Word,
    (∀ c : IllegalCause, decode w = .error c ↔ illegality w = some c) ∧
    ((∃ i, decode w = .ok i) ↔ legalWord w = true)

/-- A word matches a row of the opcode table exactly when it decodes to an instruction of that row. (30_encoding.md R94) -/
def Obligations.WordIsTheInstructionOfItsTableRow : Prop :=
  opcodeTable.length = 53 ∧
  ∀ (w : Word) (row : TableRow), row ∈ opcodeTable →
    (rowMatches row w = true ↔ ∃ i, decode w = .ok i ∧ rowOf i = row)

/-- Words written out by the spec decode to the instructions it names. (95_test_vectors.md section 2.6) -/
def Obligations.WrittenWordsDecode : Prop :=
  decode 0x001FF = .ok (.loadImm 1 0xFF) ∧ decode 0x0A1FF = .ok (.andImm 1 0xFF) ∧
  decode 0x19AB0 = .ok (.addReg 0xA 0xB) ∧ decode 0x2013C = .ok (.rr 1) ∧ decode 0x2F5E0 = .ok (.storeInd 5 0xE) ∧
  decode 0x35C7F = .ok (.jumpNC 0x7F) ∧ decode 0x2B800 = .ok .retC ∧ decode 0x3FFFF = .error .group ∧
  decode 0x00000 = .ok (.loadImm 0 0)

/-- A step executes exactly the instruction its fetched word decodes to. (70_reset_and_hazards.md R223, 70_reset_and_hazards.md R224) -/
def Obligations.StepRunsTheDecodedInstruction : Prop :=
  (∀ (s : State) (i : Instr), decode (s.wordAt s.pc) = .ok i → step s = exec i s) ∧
  ∀ (s : State) (w : Word), (s.placeWord s.pc w).wordAt (s.placeWord s.pc w).pc = w

/-- A word with an unrecognised group, selector or condition field faults and nothing of it is executed: log 6. (60_exceptions.md R191, 30_encoding.md R88, 92_eei_decisions.md D7) -/
def Obligations.IllegalWordFaultsAtDispatch : Prop :=
  (∀ (s : State) (cause : IllegalCause), illegality s.fetch = some cause →
    step s = .fault (.illegalInstruction cause s.fetch)) ∧
  ∀ w : Word, w.toNat / 0x1000 = 0x3F →
    step (State.reset.placeWord 0 w) = .fault (.illegalInstruction .group w)

/-- LOAD writes its second operand, sets Z from it and clears C. (R101, R102) -/
def Obligations.LoadCopiesOperandClearsCarry : Prop :=
  ∀ (x y : Reg) (k : Byte) (s : State),
    decode (BitVec.ofNat 18 (0x00000 + x.val * 0x100 + k.toNat)) = .ok (.loadImm x k) ∧
    (let r := k
     exec (.loadImm x k) s = .next (s.afterResult x r (decide (r = 0)) false)) ∧
    decode (BitVec.ofNat 18 (0x01000 + x.val * 0x100 + y.val * 0x10)) = .ok (.loadReg x y) ∧
    (let r := s.readReg y
     exec (.loadReg x y) s = .next (s.afterResult x r (decide (r = 0)) false))

/-- AND writes the bitwise and, sets Z from it and clears C. (R103, R104) -/
def Obligations.AndWritesConjunctionClearsCarry : Prop :=
  ∀ (x y : Reg) (k : Byte) (s : State),
    decode (BitVec.ofNat 18 (0x0A000 + x.val * 0x100 + k.toNat)) = .ok (.andImm x k) ∧
    (let r := s.readReg x &&& k
     exec (.andImm x k) s = .next (s.afterResult x r (decide (r = 0)) false)) ∧
    decode (BitVec.ofNat 18 (0x0B000 + x.val * 0x100 + y.val * 0x10)) = .ok (.andReg x y) ∧
    (let r := s.readReg x &&& s.readReg y
     exec (.andReg x y) s = .next (s.afterResult x r (decide (r = 0)) false))

/-- OR writes the bitwise or, sets Z from it and clears C. (R105, R106) -/
def Obligations.OrWritesDisjunctionClearsCarry : Prop :=
  ∀ (x y : Reg) (k : Byte) (s : State),
    decode (BitVec.ofNat 18 (0x0C000 + x.val * 0x100 + k.toNat)) = .ok (.orImm x k) ∧
    (let r := s.readReg x ||| k
     exec (.orImm x k) s = .next (s.afterResult x r (decide (r = 0)) false)) ∧
    decode (BitVec.ofNat 18 (0x0D000 + x.val * 0x100 + y.val * 0x10)) = .ok (.orReg x y) ∧
    (let r := s.readReg x ||| s.readReg y
     exec (.orReg x y) s = .next (s.afterResult x r (decide (r = 0)) false))

/-- XOR writes the bitwise exclusive or, sets Z from it and clears C. (R107, R108) -/
def Obligations.XorWritesDifferenceClearsCarry : Prop :=
  ∀ (x y : Reg) (k : Byte) (s : State),
    decode (BitVec.ofNat 18 (0x0E000 + x.val * 0x100 + k.toNat)) = .ok (.xorImm x k) ∧
    (let r := s.readReg x ^^^ k
     exec (.xorImm x k) s = .next (s.afterResult x r (decide (r = 0)) false)) ∧
    decode (BitVec.ofNat 18 (0x0F000 + x.val * 0x100 + y.val * 0x10)) = .ok (.xorReg x y) ∧
    (let r := s.readReg x ^^^ s.readReg y
     exec (.xorReg x y) s = .next (s.afterResult x r (decide (r = 0)) false))

/-- ADD writes the sum modulo 256; C is the carry out. (R109, R110) -/
def Obligations.AddWrapsAndCarriesOut : Prop :=
  ∀ (x y : Reg) (k : Byte) (s : State),
    decode (BitVec.ofNat 18 (0x18000 + x.val * 0x100 + k.toNat)) = .ok (.addImm x k) ∧
    (let t := ((s.readReg x).toNat : Int) + k.toNat
     exec (.addImm x k) s = .next (s.afterArith x t (decide (t > 255)))) ∧
    decode (BitVec.ofNat 18 (0x19000 + x.val * 0x100 + y.val * 0x10)) = .ok (.addReg x y) ∧
    (let t := ((s.readReg x).toNat : Int) + (s.readReg y).toNat
     exec (.addReg x y) s = .next (s.afterArith x t (decide (t > 255))))

/-- ADDCY writes the sum with the old Carry modulo 256; C is the carry out. (R111, R112) -/
def Obligations.AddcyAddsCarryIn : Prop :=
  ∀ (x y : Reg) (k : Byte) (s : State),
    decode (BitVec.ofNat 18 (0x1A000 + x.val * 0x100 + k.toNat)) = .ok (.addcyImm x k) ∧
    (let t := ((s.readReg x).toNat : Int) + k.toNat + s.c.toNat
     exec (.addcyImm x k) s = .next (s.afterArith x t (decide (t > 255)))) ∧
    decode (BitVec.ofNat 18 (0x1B000 + x.val * 0x100 + y.val * 0x10)) = .ok (.addcyReg x y) ∧
    (let t := ((s.readReg x).toNat : Int) + (s.readReg y).toNat + s.c.toNat
     exec (.addcyReg x y) s = .next (s.afterArith x t (decide (t > 255))))

/-- SUB writes the difference modulo 256; C is the borrow. (R113, R114) -/
def Obligations.SubWrapsAndBorrows : Prop :=
  ∀ (x y : Reg) (k : Byte) (s : State),
    decode (BitVec.ofNat 18 (0x1C000 + x.val * 0x100 + k.toNat)) = .ok (.subImm x k) ∧
    (let t := ((s.readReg x).toNat : Int) - k.toNat
     exec (.subImm x k) s = .next (s.afterArith x t (decide (t < 0)))) ∧
    decode (BitVec.ofNat 18 (0x1D000 + x.val * 0x100 + y.val * 0x10)) = .ok (.subReg x y) ∧
    (let t := ((s.readReg x).toNat : Int) - (s.readReg y).toNat
     exec (.subReg x y) s = .next (s.afterArith x t (decide (t < 0))))

/-- SUBCY writes the difference less the old Carry modulo 256; C is the borrow. (R115, R116) -/
def Obligations.SubcyTakesBorrowIn : Prop :=
  ∀ (x y : Reg) (k : Byte) (s : State),
    decode (BitVec.ofNat 18 (0x1E000 + x.val * 0x100 + k.toNat)) = .ok (.subcyImm x k) ∧
    (let t := ((s.readReg x).toNat : Int) - k.toNat - s.c.toNat
     exec (.subcyImm x k) s = .next (s.afterArith x t (decide (t < 0)))) ∧
    decode (BitVec.ofNat 18 (0x1F000 + x.val * 0x100 + y.val * 0x10)) = .ok (.subcyReg x y) ∧
    (let t := ((s.readReg x).toNat : Int) - (s.readReg y).toNat - s.c.toNat
     exec (.subcyReg x y) s = .next (s.afterArith x t (decide (t < 0))))

/-- COMPARE sets Z when equal and C when below, and writes no register. (R117, R118) -/
def Obligations.CompareOrdersUnsigned : Prop :=
  ∀ (x y : Reg) (k : Byte) (s : State),
    decode (BitVec.ofNat 18 (0x14000 + x.val * 0x100 + k.toNat)) = .ok (.compareImm x k) ∧
    exec (.compareImm x k) s = .next (s.afterCompare (decide (s.readReg x = k)) (decide ((s.readReg x).toNat < k.toNat))) ∧
    decode (BitVec.ofNat 18 (0x15000 + x.val * 0x100 + y.val * 0x10)) = .ok (.compareReg x y) ∧
    exec (.compareReg x y) s = .next (s.afterCompare (decide (s.readReg x = s.readReg y)) (decide ((s.readReg x).toNat < (s.readReg y).toNat)))

/-- TEST sets Z when no bit is shared, clears C, and writes no register. (R119, R120) -/
def Obligations.TestSetsZeroFromConjunction : Prop :=
  ∀ (x y : Reg) (k : Byte) (s : State),
    decode (BitVec.ofNat 18 (0x12000 + x.val * 0x100 + k.toNat)) = .ok (.testImm x k) ∧
    (let r := s.readReg x &&& k
     exec (.testImm x k) s = .next (s.afterCompare (decide (r = 0)) false)) ∧
    decode (BitVec.ofNat 18 (0x13000 + x.val * 0x100 + y.val * 0x10)) = .ok (.testReg x y) ∧
    (let r := s.readReg x &&& s.readReg y
     exec (.testReg x y) s = .next (s.afterCompare (decide (r = 0)) false))

/-- RL and RR rotate x[X] by one, C is the bit that wrapped, and eight RL restore the register bit by bit. (R131, R132) -/
def Obligations.RotatesMoveOneBitAround : Prop :=
  ∀ (x : Reg) (s : State),
    let a := s.readReg x
    decode (BitVec.ofNat 18 (0x20002 + x.val * 0x100)) = .ok (.rl x) ∧
    exec (.rl x) s = .next (s.afterResult x (a.extractLsb' 0 7 ++ a.extractLsb' 7 1) (decide (a = 0)) (a.getLsbD 7)) ∧
    decode (BitVec.ofNat 18 (0x2000C + x.val * 0x100)) = .ok (.rr x) ∧
    exec (.rr x) s = .next (s.afterResult x (a.extractLsb' 0 1 ++ a.extractLsb' 1 7) (decide (a = 0)) (a.getLsbD 0)) ∧
    (∀ n < 8, ∃ t, execRepeat (n + 1) (.rl x) s = .next t ∧ t.c = a.getLsbD (7 - n)) ∧
    ∃ t, execRepeat 8 (.rl x) s = .next t ∧ t.regs = s.regs

/-- SL0, SL1, SLA and SLX shift left by one, filling with 0, 1, the old Carry and the old bit 0; C is the old bit 7. (R133, R134, R135, R136) -/
def Obligations.LeftShiftsFillBitZero : Prop :=
  ∀ (x : Reg) (s : State),
    let a := s.readReg x
    decode (BitVec.ofNat 18 (0x20006 + x.val * 0x100)) = .ok (.sl0 x) ∧
    exec (.sl0 x) s = .next (s.afterResult x (a.extractLsb' 0 7 ++ 0#1) (decide (a.extractLsb' 0 7 = 0)) (a.getLsbD 7)) ∧
    decode (BitVec.ofNat 18 (0x20007 + x.val * 0x100)) = .ok (.sl1 x) ∧
    exec (.sl1 x) s = .next (s.afterResult x (a.extractLsb' 0 7 ++ 1#1) false (a.getLsbD 7)) ∧
    decode (BitVec.ofNat 18 (0x20000 + x.val * 0x100)) = .ok (.sla x) ∧
    exec (.sla x) s = .next (s.afterResult x (a.extractLsb' 0 7 ++ BitVec.ofBool s.c) (decide (a.extractLsb' 0 7 = 0 ∧ s.c = false)) (a.getLsbD 7)) ∧
    decode (BitVec.ofNat 18 (0x20004 + x.val * 0x100)) = .ok (.slx x) ∧
    exec (.slx x) s = .next (s.afterResult x (a.extractLsb' 0 7 ++ a.extractLsb' 0 1) (decide (a.extractLsb' 0 7 = 0)) (a.getLsbD 7))

/-- SR0, SR1 and SRA shift right by one, filling with 0, 1 and the old Carry; C is the old bit 0. (R137, R138, R139) -/
def Obligations.RightShiftsFillBitSeven : Prop :=
  ∀ (x : Reg) (s : State),
    let a := s.readReg x
    decode (BitVec.ofNat 18 (0x2000E + x.val * 0x100)) = .ok (.sr0 x) ∧
    exec (.sr0 x) s = .next (s.afterResult x (0#1 ++ a.extractLsb' 1 7) (decide (a.extractLsb' 1 7 = 0)) (a.getLsbD 0)) ∧
    decode (BitVec.ofNat 18 (0x2000F + x.val * 0x100)) = .ok (.sr1 x) ∧
    exec (.sr1 x) s = .next (s.afterResult x (1#1 ++ a.extractLsb' 1 7) false (a.getLsbD 0)) ∧
    decode (BitVec.ofNat 18 (0x20008 + x.val * 0x100)) = .ok (.sra x) ∧
    exec (.sra x) s = .next (s.afterResult x (BitVec.ofBool s.c ++ a.extractLsb' 1 7) (decide (a.extractLsb' 1 7 = 0 ∧ s.c = false)) (a.getLsbD 0))

/-- SRX shifts right by one filling with the old bit 0, which is RR: the spec's decision D8. (41_shift_rotate.md R140, 92_eei_decisions.md D8) -/
def Obligations.SrxFillsWithOldBitZero : Prop :=
  ∀ (x : Reg) (s : State),
    let a := s.readReg x
    decode (BitVec.ofNat 18 (0x2000A + x.val * 0x100)) = .ok (.srx x) ∧
    exec (.srx x) s = .next (s.afterResult x (a.extractLsb' 0 1 ++ a.extractLsb' 1 7) (decide (a = 0)) (a.getLsbD 0))

/-- SL0 is ADD sX, sX; SLA is ADDCY sX, sX; SRX is RR. (41_shift_rotate.md R141, 41_shift_rotate.md R140) -/
def Obligations.ShiftsThatEqualOtherInstructions : Prop :=
  ∀ (x : Reg) (s : State),
    exec (.sl0 x) s = exec (.addReg x x) s ∧ exec (.sla x) s = exec (.addcyReg x x) s ∧ exec (.srx x) s = exec (.rr x) s

/-- Nine SLA, or nine SRA, restore both the register and Carry; eight RR restore the register. (41_shift_rotate.md R141) -/
def Obligations.NineShiftsThroughCarryRestore : Prop :=
  ∀ (x : Reg) (s : State),
    (∃ t, execRepeat 9 (.sla x) s = .next t ∧ t.regs = s.regs ∧ t.c = s.c) ∧
    (∃ t, execRepeat 9 (.sra x) s = .next t ∧ t.regs = s.regs ∧ t.c = s.c) ∧
    ∃ t, execRepeat 8 (.rr x) s = .next t ∧ t.regs = s.regs

/-- ADD then ADDCY add, and SUB then SUBCY subtract, two 16-bit numbers held in register pairs. (40_alu.md R110, 40_alu.md R112, 40_alu.md R114, 40_alu.md R116) -/
def Obligations.CarryChainsSixteenBitArithmetic : Prop :=
  ∀ (x0 x1 y0 y1 : Reg) (s : State), x1 ≠ x0 → y1 ≠ x0 →
    (∃ u v, exec (.addReg x0 y0) s = .next u ∧ exec (.addcyReg x1 y1) u = .next v ∧
      v.c.toNat * 0x10000 + (v.readReg x1).toNat * 0x100 + (v.readReg x0).toNat =
        ((s.readReg x1).toNat * 0x100 + (s.readReg x0).toNat) + ((s.readReg y1).toNat * 0x100 + (s.readReg y0).toNat)) ∧
    ∃ u v, exec (.subReg x0 y0) s = .next u ∧ exec (.subcyReg x1 y1) u = .next v ∧
      ((v.readReg x1).toNat * 0x100 + (v.readReg x0).toNat) + ((s.readReg y1).toNat * 0x100 + (s.readReg y0).toNat) =
        v.c.toNat * 0x10000 + ((s.readReg x1).toNat * 0x100 + (s.readReg x0).toNat)

/-- JUMP aa sets pc to the zero-extended target and changes nothing else. (R152) -/
def Obligations.JumpSetsThePc : Prop :=
  ∀ (n : BitVec 4) (t : Byte) (s : State),
    decode (BitVec.ofNat 18 (0x34000 + n.toNat * 0x100 + t.toNat)) = .ok (.jump t) ∧
    exec (.jump t) s = .next (s.afterJump t)

/-- JUMP Z, NZ, C, NC jump when their flag says so and else only advance: log 6. (42_control_flow.md R158, 92_eei_decisions.md D7) -/
def Obligations.ConditionalJumpFollowsItsFlag : Prop :=
  ∀ (f : BitVec 4) (t : Byte) (s : State),
    (decode (BitVec.ofNat 18 (0x35000 + f.toNat * 0x100 + t.toNat)) =
      if f = 0x0 then .ok (.jumpZ t) else if f = 0x4 then .ok (.jumpNZ t)
      else if f = 0x8 then .ok (.jumpC t) else if f = 0xC then .ok (.jumpNC t) else .error .condition) ∧
    (s.fetch = BitVec.ofNat 18 (0x35000 + f.toNat * 0x100 + t.toNat) → f ∉ [0x0, 0x4, 0x8, 0xC] →
      step s = .fault (.illegalInstruction .condition s.fetch)) ∧
    exec (.jumpZ t) s = .next (if s.z = true then s.afterJump t else s.afterAdvance) ∧
    exec (.jumpNZ t) s = .next (if s.z = false then s.afterJump t else s.afterAdvance) ∧
    exec (.jumpC t) s = .next (if s.c = true then s.afterJump t else s.afterAdvance) ∧
    exec (.jumpNC t) s = .next (if s.c = false then s.afterJump t else s.afterAdvance)

/-- CALL aa pushes its own address in the next ring slot and jumps: the spec's decision D5. (42_control_flow.md R154, 92_eei_decisions.md D5) -/
def Obligations.CallPushesItsOwnAddress : Prop :=
  ∀ (n : BitVec 4) (t : Byte) (s : State),
    decode (BitVec.ofNat 18 (0x30000 + n.toNat * 0x100 + t.toNat)) = .ok (.call t) ∧
    ∃ u, exec (.call t) s = .next u ∧ u = s.afterCall t ∧ u.sp.val = (s.sp.val + 1) % 31 ∧ u.stack[u.sp] = s.pc ∧
      (∀ k : Fin 31, k ≠ u.sp → u.stack[k] = s.stack[k]) ∧ u.pc.toNat = t.toNat

/-- CALL Z, NZ, C, NC call when their flag says so and else only advance, pushing nothing: log 6. (42_control_flow.md R159, 92_eei_decisions.md D7) -/
def Obligations.ConditionalCallPushesWhenTaken : Prop :=
  ∀ (f : BitVec 4) (t : Byte) (s : State),
    (decode (BitVec.ofNat 18 (0x31000 + f.toNat * 0x100 + t.toNat)) =
      if f = 0x0 then .ok (.callZ t) else if f = 0x4 then .ok (.callNZ t)
      else if f = 0x8 then .ok (.callC t) else if f = 0xC then .ok (.callNC t) else .error .condition) ∧
    (s.fetch = BitVec.ofNat 18 (0x31000 + f.toNat * 0x100 + t.toNat) → f ∉ [0x0, 0x4, 0x8, 0xC] →
      step s = .fault (.illegalInstruction .condition s.fetch)) ∧
    exec (.callZ t) s = .next (if s.z = true then s.afterCall t else s.afterAdvance) ∧
    exec (.callNZ t) s = .next (if s.z = false then s.afterCall t else s.afterAdvance) ∧
    exec (.callC t) s = .next (if s.c = true then s.afterCall t else s.afterAdvance) ∧
    exec (.callNC t) s = .next (if s.c = false then s.afterCall t else s.afterAdvance)

/-- RETURN sets pc to one more than the popped entry, moves sp back and keeps the slot: decisions D5 and D6. (42_control_flow.md R156, 42_control_flow.md R157, 92_eei_decisions.md D5, 92_eei_decisions.md D6) -/
def Obligations.ReturnResumesAfterTheCall : Prop :=
  ∀ (n : BitVec 12) (s : State),
    decode (BitVec.ofNat 18 (0x2A000 + n.toNat)) = .ok .ret ∧
    ∃ u, exec .ret s = .next u ∧ u = s.afterReturn ∧ u.pc.toNat = (s.stack[s.sp].toNat + 1) % 1024 ∧
      u.sp.val = (s.sp.val + 30) % 31 ∧ u.stack = s.stack

/-- RETURN Z, NZ, C, NC return when their flag says so and else only advance, popping nothing: log 6. (42_control_flow.md R160, 92_eei_decisions.md D7) -/
def Obligations.ConditionalReturnPopsWhenTaken : Prop :=
  ∀ (f : BitVec 4) (t : Byte) (s : State),
    (decode (BitVec.ofNat 18 (0x2B000 + f.toNat * 0x100 + t.toNat)) =
      if f = 0x0 then .ok (.retZ) else if f = 0x4 then .ok (.retNZ)
      else if f = 0x8 then .ok (.retC) else if f = 0xC then .ok (.retNC) else .error .condition) ∧
    (s.fetch = BitVec.ofNat 18 (0x2B000 + f.toNat * 0x100 + t.toNat) → f ∉ [0x0, 0x4, 0x8, 0xC] →
      step s = .fault (.illegalInstruction .condition s.fetch)) ∧
    exec (.retZ) s = .next (if s.z = true then s.afterReturn else s.afterAdvance) ∧
    exec (.retNZ) s = .next (if s.z = false then s.afterReturn else s.afterAdvance) ∧
    exec (.retC) s = .next (if s.c = true then s.afterReturn else s.afterAdvance) ∧
    exec (.retNC) s = .next (if s.c = false then s.afterReturn else s.afterAdvance)

/-- A CALL whose target holds a RETURN comes back after two steps to the instruction after the CALL, sp as before. (42_control_flow.md R156, 42_control_flow.md R163, 92_eei_decisions.md D5) -/
def Obligations.CallThenReturnResumesAfterCall : Prop :=
  ∀ (s : State) (t : Byte),
    decode s.fetch = .ok (.call t) → decode (s.wordAt (BitVec.ofNat 10 t.toNat)) = .ok .ret →
    runLoop 2 s = ({ s with pc := s.pc + 1, stack := (s.afterCall t).stack }, none)

/-- Up to 31 nested calls return to the addresses after them in reverse order; 31 calls bring sp back. (42_control_flow.md R155, 42_control_flow.md R154, 42_control_flow.md R156) -/
def Obligations.NestedCallsReturnInReverseOrder : Prop :=
  ∀ (t : Byte) (sites : List Addr) (s : State), sites.length ≤ 31 →
    ∃ u, callFrom t sites s = .next u ∧ returnAddrs sites.length u = sites.reverse.map (fun a => a + 1) ∧
      (sites.length = 31 → u.sp = s.sp)

/-- Along every run sp is its start value plus calls executed minus returns executed, modulo 31. (42_control_flow.md R155) -/
def Obligations.StackPointerCountsCallsModuloThirtyOne : Prop :=
  ∀ (n : Nat) (s : State), ((runLoop n s).1.sp.val : Int) = ((s.sp.val : Int) + netCalls n s) % 31

/-- FETCH replaces x[X] by the addressed cell, and faults above address 63. (R172, R173) -/
def Obligations.FetchReadsOneCellOrFaults : Prop :=
  ∀ (x y : Reg) (a : Byte) (s : State),
    decode (BitVec.ofNat 18 (0x06000 + x.val * 0x100 + a.toNat)) = .ok (.fetchImm x a) ∧
    (a.toNat ≤ 63 → exec (.fetchImm x a) s =
      .next { s with regs := s.regs.set x (s.readCell a.toNat), pc := s.pc + 1 }) ∧
    (63 < a.toNat → exec (.fetchImm x a) s = .fault (.scratchpadAddressOutOfRange a)) ∧
    decode (BitVec.ofNat 18 (0x07000 + x.val * 0x100 + y.val * 0x10)) = .ok (.fetchInd x y) ∧
    ((s.readReg y).toNat ≤ 63 → exec (.fetchInd x y) s =
      .next { s with regs := s.regs.set x (s.readCell (s.readReg y).toNat), pc := s.pc + 1 }) ∧
    (63 < (s.readReg y).toNat → exec (.fetchInd x y) s = .fault (.scratchpadAddressOutOfRange (s.readReg y)))

/-- STORE writes x[X] to the addressed cell and no other, and faults above address 63; a FETCH then reads it. (R174, R175) -/
def Obligations.StoreWritesOneCellOrFaults : Prop :=
  ∀ (x y : Reg) (a : Byte) (s : State),
    decode (BitVec.ofNat 18 (0x2E000 + x.val * 0x100 + a.toNat)) = .ok (.storeImm x a) ∧
    (a.toNat ≤ 63 → ∃ u, exec (.storeImm x a) s = .next u ∧
      (∀ b, u.readCell b = if b = a.toNat then s.readReg x else s.readCell b) ∧
      u.pc = s.pc + 1 ∧ u.regs = s.regs ∧ u.z = s.z ∧ u.c = s.c ∧ SameRing s u ∧ SameOutside s u ∧
      ∃ v, exec (.fetchImm y a) u = .next v ∧ v.readReg y = s.readReg x) ∧
    (63 < a.toNat → exec (.storeImm x a) s = .fault (.scratchpadAddressOutOfRange a)) ∧
    decode (BitVec.ofNat 18 (0x2F000 + x.val * 0x100 + y.val * 0x10)) = .ok (.storeInd x y) ∧
    ((s.readReg y).toNat ≤ 63 → ∃ u, exec (.storeInd x y) s = .next u ∧
      (∀ b, u.readCell b = if b = (s.readReg y).toNat then s.readReg x else s.readCell b) ∧
      u.pc = s.pc + 1 ∧ u.regs = s.regs ∧ u.z = s.z ∧ u.c = s.c ∧ SameRing s u ∧ SameOutside s u) ∧
    (63 < (s.readReg y).toNat → exec (.storeInd x y) s = .fault (.scratchpadAddressOutOfRange (s.readReg y)))

/-- INPUT replaces x[X] by one port answer, recorded as one read event, flags untouched: logs 1 and 2. (43_memory_port.md R176, 43_memory_port.md R177, 10_state.md R33, 92_eei_decisions.md D16) -/
def Obligations.InputTakesOnePortAnswer : Prop :=
  ∀ (x y : Reg) (p : Byte) (s : State),
    decode (BitVec.ofNat 18 (0x04000 + x.val * 0x100 + p.toNat)) = .ok (.inputImm x p) ∧
    (∃ v, (∀ a rest, s.portIn = a :: rest → v = a) ∧ exec (.inputImm x p) s =
      .next { s with regs := s.regs.set x v, pc := s.pc + 1, portIn := s.portIn.tail, portLog := s.portLog ++ [.read p v] }) ∧
    decode (BitVec.ofNat 18 (0x05000 + x.val * 0x100 + y.val * 0x10)) = .ok (.inputInd x y) ∧
    ∃ v, (∀ a rest, s.portIn = a :: rest → v = a) ∧ exec (.inputInd x y) s =
      .next { s with
        regs := s.regs.set x v, pc := s.pc + 1, portIn := s.portIn.tail
        portLog := s.portLog ++ [.read (s.readReg y) v] }

/-- OUTPUT makes exactly one port write of x[X] and changes no core state but pc: log 2. (43_memory_port.md R178, 43_memory_port.md R179, 10_state.md R33) -/
def Obligations.OutputMakesOnePortWrite : Prop :=
  ∀ (x y : Reg) (p : Byte) (s : State),
    decode (BitVec.ofNat 18 (0x2C000 + x.val * 0x100 + p.toNat)) = .ok (.outputImm x p) ∧
    exec (.outputImm x p) s =
      .next { s with pc := s.pc + 1, portLog := s.portLog ++ [.write p (s.readReg x)] } ∧
    decode (BitVec.ofNat 18 (0x2D000 + x.val * 0x100 + y.val * 0x10)) = .ok (.outputInd x y) ∧
    exec (.outputInd x y) s =
      .next { s with pc := s.pc + 1, portLog := s.portLog ++ [.write (s.readReg y) (s.readReg x)] }

/-- An instruction changes no general register but the destination rule R21 lists for it. (10_state.md R21) -/
def Obligations.OnlyTheDestinationRegisterChanges : Prop :=
  ∀ (i : Instr) (s t : State), exec i s = .next t →
    ∀ r : Reg, destination i ≠ some r → t.readReg r = s.readReg r

/-- Flags change only in ALU-class instructions, and Z then says whether the written result is zero. (10_state.md R26, 10_state.md R27) -/
def Obligations.OnlyAluClassInstructionsChangeFlags : Prop :=
  ∀ (i : Instr) (s t : State), exec i s = .next t →
    (writesFlags i = false → t.z = s.z ∧ t.c = s.c) ∧
    (writesFlags i = true → ∀ r : Reg, destination i = some r → t.z = decide (t.readReg r = 0))

/-- An instruction that rule R27 does not list as a reader of a flag behaves the same whatever that flag holds: log 1. (10_state.md R27) -/
def Obligations.FlagsAreReadOnlyByTheirReaders : Prop :=
  ∀ (i : Instr) (s : State) (b : Bool),
    (readsZ i = false → exec i { s with z := b } =
      mapNext (fun t => if writesFlags i then t else { t with z := b }) (exec i s)) ∧
    (readsC i = false → exec i { s with c := b } =
      mapNext (fun t => if writesFlags i then t else { t with c := b }) (exec i s))

/-- No scratchpad cell changes but the one a STORE addresses. (20_memory.md R50, 43_memory_port.md R174, 43_memory_port.md R175) -/
def Obligations.OnlyTheStoredCellChanges : Prop :=
  ∀ (i : Instr) (s t : State), exec i s = .next t →
    ∀ b : Nat, storedCell i s ≠ some b → t.readCell b = s.readCell b

/-- Only a taken CALL writes a stack slot, the one after sp; only taken CALLs and RETURNs move sp. (10_state.md R28, 10_state.md R29, 42_control_flow.md R151) -/
def Obligations.OnlyTakenCallsAndReturnsMoveTheRing : Prop :=
  ∀ (i : Instr) (s t : State), exec i s = .next t →
    (t.sp.val : Int) = ((s.sp.val : Int) + ringMove (takenTransfer i s)) % 31 ∧
    ∀ k : Fin 31, takenTransfer i s = some .call ∧ k = t.sp ∨ t.stack[k] = s.stack[k]

/-- Each INPUT makes one read event, each OUTPUT one write event, and nothing else touches a port: logs 1 and 2. (20_memory.md R57, 43_memory_port.md R171) -/
def Obligations.PortEventsAreExactlyThoseOfPortInstructions : Prop :=
  ∀ (i : Instr) (s t : State), exec i s = .next t →
    t.portLog = s.portLog ++ (portEventOf i s).toList ∧
    t.portIn = (match portEventOf i s with | some (.read _ _) => s.portIn.tail | _ => s.portIn)

/-- No run of the core changes a program word. (10_state.md R30, 20_memory.md R61) -/
def Obligations.ProgramMemoryIsNeverWritten : Prop :=
  ∀ (n : Nat) (s : State) (a : Addr), (runLoop n s).1.wordAt a = s.wordAt a

/-- pc advances by one modulo 1024 after every instruction that takes no transfer, and stays on a fault: log 6. (10_state.md R24, 60_exceptions.md R195) -/
def Obligations.PcAdvancesUnlessATransferIsTaken : Prop :=
  (∀ (i : Instr) (s t : State), exec i s = .next t → takenTransfer i s = none →
    t.pc.toNat = (s.pc.toNat + 1) % 1024) ∧
  ∀ (s : State) (f : Fault), step s = .fault f → (stepCall s).1.pc = s.pc

/-- Every instruction answers a next state from every state, but FETCH and STORE above address 63, which fault. (43_memory_port.md R170, 43_memory_port.md R171, 60_exceptions.md R192) -/
def Obligations.EveryInstructionCompletesButBadScratchAddresses : Prop :=
  ∀ (i : Instr) (s : State),
    ((∀ a, scratchAddress i s = some a → a.toNat ≤ 63) → ∃ t, exec i s = .next t) ∧
    ∀ a, scratchAddress i s = some a → 63 < a.toNat → exec i s = .fault (.scratchpadAddressOutOfRange a)

/-- A step faults exactly when the checks of the step cycle say, with that fault, and otherwise answers a next state: log 6. (70_reset_and_hazards.md R223, 60_exceptions.md R190, 60_exceptions.md R193, 60_exceptions.md R198) -/
def Obligations.StepFaultsExactlyAsTheStepCycleChecks : Prop :=
  ∀ s : State,
    (∀ f, step s = .fault f ↔ faultOfChecks s = some f) ∧
    (faultOfChecks s = none → ∃ t, step s = .next t) ∧
    (∀ r, step s ≠ .refused r) ∧
    step s ≠ .fault .registerIndexOutOfRange ∧ step s ≠ .fault .programAddressOutOfRange ∧
    step s ≠ .fault .portAddressOutOfRange ∧ step s ≠ .fault .immediateOutOfRange

/-- After a fault the whole state is as before, and every further step faults the same way: log 6. (60_exceptions.md R195, 60_exceptions.md R196, 60_exceptions.md R197) -/
def Obligations.FaultLeavesTheStateAndRepeats : Prop :=
  ∀ (s : State) (f : Fault), step s = .fault f →
    ∀ n, runLoop (n + 1) s = (s, some (.fault f)) ∧ session (List.replicate (n + 1) .step) s = (s, some (.fault f))

/-- The reset state has both memories in canonical form. (10_state.md R40) -/
def Obligations.ResetStateIsCanonical : Prop :=
  State.reset.Inv

/-- Every step keeps scratchpad and program memory in canonical form. (10_state.md R31, 20_memory.md R52, 20_memory.md R61) -/
def Obligations.StepKeepsTheInvariant : Prop :=
  ∀ s t : State, s.Inv → step s = .next t → t.Inv

/-- Any mixture of steps, resets, clears, program loads and register injections keeps the invariant: log 5. (70_reset_and_hazards.md R220, 70_reset_and_hazards.md R221, 70_reset_and_hazards.md R231, 70_reset_and_hazards.md R232) -/
def Obligations.SessionsKeepTheInvariant : Prop :=
  ∀ (events : List HostEvent) (s : State), s.Inv → (session events s).1.Inv

/-- Along every run the port log keeps what it holds and grows by at most one event a step: log 2. (20_memory.md R57, 20_memory.md R58, 10_state.md R36) -/
def Obligations.PortLogOnlyGrowsByAtMostOneEventAStep : Prop :=
  ∀ (n : Nat) (s : State),
    s.portLog <+: (runLoop n s).1.portLog ∧ (runLoop n s).1.portLog.length ≤ s.portLog.length + n

/-- From a JUMP to its own address every run of any length leaves the whole state unchanged and never stops. (70_reset_and_hazards.md R230, 42_control_flow.md R152) -/
def Obligations.SelfJumpRunsForEverUnchanged : Prop :=
  ∀ (s : State) (n : Nat), AtSelfJump s → runLoop n s = (s, none)

/-- Right after reset JUMP NZ and JUMP NC are taken and JUMP Z and JUMP C are not. (42_control_flow.md R151, 70_reset_and_hazards.md R222) -/
def Obligations.ConditionsAfterReset : Prop :=
  ∀ t : Byte,
    exec (.jumpNZ t) State.reset = .next (State.reset.afterJump t) ∧
    exec (.jumpNC t) State.reset = .next (State.reset.afterJump t) ∧
    exec (.jumpZ t) State.reset = .next { State.reset with pc := 1 } ∧
    exec (.jumpC t) State.reset = .next { State.reset with pc := 1 }

/-- Replacing the program makes every listed word the one fetched and keeps all other state: log 5. (70_reset_and_hazards.md R232, 10_state.md R30) -/
def Obligations.HostLoadReplacesOnlyTheProgram : Prop :=
  ∀ (s : State) (image : ProgramMemory), ProgramMemory.wf image →
    ∃ t, applyHost (.load image) s = some t ∧ (∀ a w, (a, w) ∈ image → t.wordAt (BitVec.ofNat 10 a) = w) ∧
      t.pc = s.pc ∧ SameData s t ∧ SameRing s t ∧ t.portIn = s.portIn ∧ t.portLog = s.portLog

/-- The host's register injection overwrites one register with any value and changes nothing else: log 5. (70_reset_and_hazards.md R231, 92_eei_decisions.md D17) -/
def Obligations.HostInjectionWritesOneRegister : Prop :=
  ∀ (s : State) (r : Reg) (v : Byte),
    ∃ t, applyHost (.inject r v) s = some t ∧ (∀ q : Reg, t.readReg q = if q = r then v else s.readReg q) ∧
      t.pc = s.pc ∧ t.z = s.z ∧ t.c = s.c ∧ t.scratch = s.scratch ∧ SameRing s t ∧ SameOutside s t

/-- The n-th token of a program text becomes the word at program address n: log 8. (30_encoding.md R92) -/
def Obligations.ProgramTextPlacesTokensInOrder : Prop :=
  ∀ (text : List Char) (ws : List Word) (s : State), wordsOfText text = some ws →
    ['\n'].intercalate (linesFrom [] text) = text ∧ (∀ line ∈ linesFrom [] text, '\n' ∉ line) ∧
    ((linesFrom [] text).filter fun line => !ignoredLine line).map tokenWord = ws.map some ∧
    ws.length ≤ 1024 ∧ ∃ t, loadText text s = some t ∧
      (∀ (n : Nat) (h : n < ws.length), t.wordAt (BitVec.ofNat 10 n) = ws[n]) ∧ t.pc = s.pc ∧ t.regs = s.regs
end

