-- ==== Sys2Proof/Laws/Alu.lean ====
section
/-! SUPPORT. What the ALU puts out, operation by operation: the narrowing of the exact result, in bit-vector words. -/

namespace Sys2Proof.Machine

/-! ## Narrowing -/

theorem maskResult_ofNat (n : Nat) : maskResult (n : Int) = BitVec.ofNat 8 n := by
  simp [maskResult]

/-- The generic carry of a pre-mask result in the range the operations have: set above 255 and below 0. -/
theorem genericCarry_of_range {pre : Int} (lo : -256 ≤ pre) (hi : pre ≤ 511) :
    genericCarry pre = decide (255 < pre ∨ pre < 0) := by
  rw [Bool.eq_iff_iff]
  simp only [genericCarry, beq_iff_eq, decide_eq_true_eq]
  omega

theorem bitInt_range (b : Bool) : 0 ≤ bitInt b ∧ bitInt b ≤ 1 := by cases b <;> decide

/-- The pre-mask result lies in -256..511 for every operation (spec/40_alu.md rule R100). -/
theorem preMask_range (op : AluOp) (a b : Byte) (cin : Bool) :
    -256 ≤ preMask op a b cin ∧ preMask op a b cin ≤ 511 := by
  have ha := a.isLt
  have hb := b.isLt
  have h0 := bitInt_range (a.getLsbD 0)
  have h7 := bitInt_range (a.getLsbD 7)
  have hc := bitInt_range cin
  have h1 := (a &&& b).isLt
  have h2 := (a ||| b).isLt
  have h3 := (a ^^^ b).isLt
  cases op <;> simp only [preMask] <;> omega

/-! ## The parts of an output -/

theorem alu_result (op : AluOp) (a b : Byte) (cin : Bool) :
    (alu op a b cin).result = maskResult (preMask op a b cin) := rfl

theorem alu_zero (op : AluOp) (a b : Byte) (cin : Bool) :
    (alu op a b cin).zero = ((alu op a b cin).result == 0) := rfl

/-- Generic carry: set exactly above 255 and below 0 (spec/40_alu.md rule R100). -/
theorem alu_carry_generic {op : AluOp} (h : specialCarry op = false) (a b : Byte) (cin : Bool) :
    (alu op a b cin).carry = decide (255 < preMask op a b cin ∨ preMask op a b cin < 0) := by
  simp only [alu, h]
  exact genericCarry_of_range (preMask_range op a b cin).1 (preMask_range op a b cin).2

/-- Special carry: the old bit 0 (spec/40_alu.md rule R100). -/
theorem alu_carry_special {op : AluOp} (h : specialCarry op = true) (a b : Byte) (cin : Bool) :
    (alu op a b cin).carry = a.getLsbD 0 := by
  simp only [alu, h, if_true]

/-! ## Results as bit-vector arithmetic -/

theorem alu_add_result (a b : Byte) (cin : Bool) : (alu .add a b cin).result = a + b := by
  rw [alu_result]; simp only [preMask]
  rw [← Int.natCast_add, maskResult_ofNat]
  apply BitVec.eq_of_toNat_eq; simp

theorem alu_sub_result (a b : Byte) (cin : Bool) : (alu .sub a b cin).result = a - b := by
  rw [alu_result]; simp only [preMask, maskResult]
  apply BitVec.eq_of_toNat_eq
  have := a.isLt; have := b.isLt
  simp only [BitVec.toNat_ofInt, BitVec.toNat_sub]; omega

theorem alu_addcy_result (a b : Byte) (cin : Bool) :
    (alu .addcy a b cin).result = a + b + BitVec.ofNat 8 cin.toNat := by
  rw [alu_result]; simp only [preMask, maskResult]
  apply BitVec.eq_of_toNat_eq
  cases cin <;> simp [bitInt] <;> omega

theorem alu_subcy_result (a b : Byte) (cin : Bool) :
    (alu .subcy a b cin).result = a - b - BitVec.ofNat 8 cin.toNat := by
  rw [alu_result]; simp only [preMask, maskResult]
  apply BitVec.eq_of_toNat_eq
  have := a.isLt; have := b.isLt
  cases cin <;> simp [bitInt, BitVec.toNat_ofInt, BitVec.toNat_sub] <;> omega

theorem alu_load_result (a b : Byte) (cin : Bool) : (alu .load a b cin).result = b := by
  rw [alu_result]; simp [preMask, maskResult_ofNat]

theorem alu_and_result (a b : Byte) (cin : Bool) : (alu .and a b cin).result = a &&& b := by
  rw [alu_result]; simp only [preMask, maskResult_ofNat]; simp

theorem alu_or_result (a b : Byte) (cin : Bool) : (alu .or a b cin).result = a ||| b := by
  rw [alu_result]; simp only [preMask, maskResult_ofNat]; simp

theorem alu_xor_result (a b : Byte) (cin : Bool) : (alu .xor a b cin).result = a ^^^ b := by
  rw [alu_result]; simp only [preMask, maskResult_ofNat]; simp

theorem alu_compare_result (a b : Byte) (cin : Bool) : (alu .compare a b cin).result = a - b :=
  alu_sub_result a b cin

theorem alu_test_result (a b : Byte) (cin : Bool) : (alu .test a b cin).result = a &&& b :=
  alu_and_result a b cin

end Sys2Proof.Machine
end

