-- ==== Sys2Proof/Laws/Decode.lean ====
section
/-! SUPPORT. The fields of the encoder's words: one lemma for each field of each format that has it. -/

namespace Sys2Proof

/-- A field of a word as arithmetic on the number the word is. -/
theorem extract_toNat (w : Word) (lo len : Nat) :
    (w.extractLsb' lo len).toNat = w.toNat / 2 ^ lo % 2 ^ len := by
  simp [BitVec.extractLsb'_toNat, Nat.shiftRight_eq_div_pow]

theorem formRI_toNat (g : BitVec 6) (x : Reg) (k : Byte) :
    (formRI g x k).toNat = g.toNat * 4096 + x.val * 256 + k.toNat := by
  have := k.isLt; have := x.isLt
  simp only [formRI, BitVec.toNat_append]
  rw [← Nat.shiftLeft_add_eq_or_of_lt (b := k.toNat) (BitVec.isLt _),
    ← Nat.shiftLeft_add_eq_or_of_lt (b := (BitVec.ofFin (w := 4) x).toNat) (BitVec.isLt _)]
  simp [Nat.shiftLeft_eq]; omega

theorem formRR_toNat (g : BitVec 6) (x y : Reg) :
    (formRR g x y).toNat = g.toNat * 4096 + x.val * 256 + y.val * 16 := by
  have := y.isLt; have := x.isLt
  simp only [formRR, BitVec.toNat_append]
  rw [← Nat.shiftLeft_add_eq_or_of_lt (b := (0#4).toNat) (BitVec.isLt _),
    ← Nat.shiftLeft_add_eq_or_of_lt (b := (BitVec.ofFin (w := 4) y).toNat) (BitVec.isLt _),
    ← Nat.shiftLeft_add_eq_or_of_lt (b := (BitVec.ofFin (w := 4) x).toNat) (BitVec.isLt _)]
  simp [Nat.shiftLeft_eq]; omega

theorem formSH_toNat (x : Reg) (sel : BitVec 4) : (formSH x sel).toNat = 0x20000 + x.val * 256 + sel.toNat := by
  have := sel.isLt; have := x.isLt
  simp only [formSH, BitVec.toNat_append]
  rw [← Nat.shiftLeft_add_eq_or_of_lt (b := sel.toNat) (BitVec.isLt _),
    ← Nat.shiftLeft_add_eq_or_of_lt (b := (0#4).toNat) (BitVec.isLt _),
    ← Nat.shiftLeft_add_eq_or_of_lt (b := (BitVec.ofFin (w := 4) x).toNat) (BitVec.isLt _)]
  simp [Nat.shiftLeft_eq]; omega

theorem formB_toNat (g : BitVec 6) (t : Byte) : (formB g t).toNat = g.toNat * 4096 + t.toNat := by
  have := t.isLt
  simp only [formB, BitVec.toNat_append]
  rw [← Nat.shiftLeft_add_eq_or_of_lt (b := t.toNat) (BitVec.isLt _),
    ← Nat.shiftLeft_add_eq_or_of_lt (b := (0#4).toNat) (BitVec.isLt _)]
  simp [Nat.shiftLeft_eq]; omega

theorem formBC_toNat (g : BitVec 6) (f : BitVec 4) (t : Byte) :
    (formBC g f t).toNat = g.toNat * 4096 + f.toNat * 256 + t.toNat := by
  have := t.isLt; have := f.isLt
  simp only [formBC, BitVec.toNat_append]
  rw [← Nat.shiftLeft_add_eq_or_of_lt (b := t.toNat) (BitVec.isLt _),
    ← Nat.shiftLeft_add_eq_or_of_lt (b := f.toNat) (BitVec.isLt _)]
  simp [Nat.shiftLeft_eq]; omega

theorem formRTC_toNat (f : BitVec 4) : (formRTC f).toNat = 0x2B000 + f.toNat * 256 := by
  have := f.isLt
  simp only [formRTC, BitVec.toNat_append]
  rw [← Nat.shiftLeft_add_eq_or_of_lt (b := (0#8).toNat) (BitVec.isLt _),
    ← Nat.shiftLeft_add_eq_or_of_lt (b := f.toNat) (BitVec.isLt _)]
  simp [Nat.shiftLeft_eq]; omega

/-! ## Each field as arithmetic -/

theorem fieldGroup_toNat (w : Word) : (fieldGroup w).toNat = w.toNat / 4096 := by
  have := w.isLt
  simp only [fieldGroup, extract_toNat]; omega

theorem fieldReg1_val (w : Word) : (fieldReg1 w).val = w.toNat / 256 % 16 := extract_toNat w 8 4

theorem fieldReg2_val (w : Word) : (fieldReg2 w).val = w.toNat / 16 % 16 := extract_toNat w 4 4

theorem fieldImm8_toNat (w : Word) : (fieldImm8 w).toNat = w.toNat % 256 := by
  simp only [fieldImm8, extract_toNat]; omega

theorem fieldCond_toNat (w : Word) : (fieldCond w).toNat = w.toNat / 256 % 16 := extract_toNat w 8 4

theorem fieldSelector_toNat (w : Word) : (fieldSelector w).toNat = w.toNat % 16 := by
  simp only [fieldSelector, extract_toNat]; omega

/-! ## Each field of each format -/

theorem fieldGroup_formRI (g : BitVec 6) (x : Reg) (k : Byte) : fieldGroup (formRI g x k) = g := by
  apply BitVec.eq_of_toNat_eq
  rw [fieldGroup_toNat, formRI_toNat]
  have := k.isLt
  have := x.isLt
  omega

theorem fieldGroup_formRR (g : BitVec 6) (x k : Reg) : fieldGroup (formRR g x k) = g := by
  apply BitVec.eq_of_toNat_eq
  rw [fieldGroup_toNat, formRR_toNat]
  have := k.isLt
  have := x.isLt
  omega

theorem fieldGroup_formSH (x : Reg) (k : BitVec 4) : fieldGroup (formSH x k) = 0x20 := by
  apply BitVec.eq_of_toNat_eq
  rw [fieldGroup_toNat, formSH_toNat]
  have := k.isLt
  have := x.isLt
  simp
  omega

theorem fieldGroup_formB (g : BitVec 6) (k : Byte) : fieldGroup (formB g k) = g := by
  apply BitVec.eq_of_toNat_eq
  rw [fieldGroup_toNat, formB_toNat]
  have := k.isLt
  omega

theorem fieldGroup_formBC (g : BitVec 6) (f : BitVec 4) (k : Byte) : fieldGroup (formBC g f k) = g := by
  apply BitVec.eq_of_toNat_eq
  rw [fieldGroup_toNat, formBC_toNat]
  have := k.isLt
  have := f.isLt
  omega

theorem fieldGroup_formRTC (f : BitVec 4) : fieldGroup (formRTC f) = 0x2B := by
  apply BitVec.eq_of_toNat_eq
  rw [fieldGroup_toNat, formRTC_toNat]
  have := f.isLt
  simp
  omega

theorem fieldReg1_formRI (g : BitVec 6) (x : Reg) (k : Byte) : fieldReg1 (formRI g x k) = x := by
  apply Fin.ext
  rw [fieldReg1_val, formRI_toNat]
  have := k.isLt
  have := x.isLt
  have := g.isLt
  omega

theorem fieldReg1_formRR (g : BitVec 6) (x k : Reg) : fieldReg1 (formRR g x k) = x := by
  apply Fin.ext
  rw [fieldReg1_val, formRR_toNat]
  have := k.isLt
  have := x.isLt
  omega

theorem fieldReg1_formSH (x : Reg) (k : BitVec 4) : fieldReg1 (formSH x k) = x := by
  apply Fin.ext
  rw [fieldReg1_val, formSH_toNat]
  have := k.isLt
  have := x.isLt
  omega

theorem fieldReg2_formRR (g : BitVec 6) (x k : Reg) : fieldReg2 (formRR g x k) = k := by
  apply Fin.ext
  rw [fieldReg2_val, formRR_toNat]
  have := k.isLt
  have := x.isLt
  omega

theorem fieldImm8_formRI (g : BitVec 6) (x : Reg) (k : Byte) : fieldImm8 (formRI g x k) = k := by
  apply BitVec.eq_of_toNat_eq
  rw [fieldImm8_toNat, formRI_toNat]
  have := k.isLt
  have := x.isLt
  omega

theorem fieldImm8_formB (g : BitVec 6) (k : Byte) : fieldImm8 (formB g k) = k := by
  apply BitVec.eq_of_toNat_eq
  rw [fieldImm8_toNat, formB_toNat]
  have := k.isLt
  omega

theorem fieldImm8_formBC (g : BitVec 6) (f : BitVec 4) (k : Byte) : fieldImm8 (formBC g f k) = k := by
  apply BitVec.eq_of_toNat_eq
  rw [fieldImm8_toNat, formBC_toNat]
  have := k.isLt
  omega

theorem fieldCond_formBC (g : BitVec 6) (f : BitVec 4) (k : Byte) : fieldCond (formBC g f k) = f := by
  apply BitVec.eq_of_toNat_eq
  rw [fieldCond_toNat, formBC_toNat]
  have := k.isLt
  have := f.isLt
  omega

theorem fieldCond_formRTC (f : BitVec 4) : fieldCond (formRTC f) = f := by
  apply BitVec.eq_of_toNat_eq
  rw [fieldCond_toNat, formRTC_toNat]
  have := f.isLt
  omega

theorem fieldSelector_formSH (x : Reg) (k : BitVec 4) : fieldSelector (formSH x k) = k := by
  apply BitVec.eq_of_toNat_eq
  rw [fieldSelector_toNat, formSH_toNat]
  have := k.isLt
  have := x.isLt
  omega

end Sys2Proof
end

