-- ==== Sys2Proof/Laws/State.lean ====
section
/-! SUPPORT. One lemma for each field of each state update, true by unfolding it once, so that no later proof unfolds a
record update; the reset values; and how the accessors read an updated state. -/

namespace Sys2Proof.Machine

@[simp] theorem State.writeReg_regs (s : State) (r : Reg) (v : Byte) : (s.writeReg r v).regs = s.regs.set r v := rfl
@[simp] theorem State.writeReg_pc (s : State) (r : Reg) (v : Byte) : (s.writeReg r v).pc = s.pc := rfl
@[simp] theorem State.writeReg_z (s : State) (r : Reg) (v : Byte) : (s.writeReg r v).z = s.z := rfl
@[simp] theorem State.writeReg_c (s : State) (r : Reg) (v : Byte) : (s.writeReg r v).c = s.c := rfl
@[simp] theorem State.writeReg_stack (s : State) (r : Reg) (v : Byte) : (s.writeReg r v).stack = s.stack := rfl
@[simp] theorem State.writeReg_sp (s : State) (r : Reg) (v : Byte) : (s.writeReg r v).sp = s.sp := rfl
@[simp] theorem State.writeReg_scratch (s : State) (r : Reg) (v : Byte) : (s.writeReg r v).scratch = s.scratch := rfl
@[simp] theorem State.writeReg_prog (s : State) (r : Reg) (v : Byte) : (s.writeReg r v).prog = s.prog := rfl
@[simp] theorem State.writeReg_loads (s : State) (r : Reg) (v : Byte) : (s.writeReg r v).loads = s.loads := rfl
@[simp] theorem State.writeReg_portIn (s : State) (r : Reg) (v : Byte) : (s.writeReg r v).portIn = s.portIn := rfl
@[simp] theorem State.writeReg_portLog (s : State) (r : Reg) (v : Byte) : (s.writeReg r v).portLog = s.portLog := rfl

@[simp] theorem State.setFlags_regs (s : State) (zero carry : Bool) : (s.setFlags zero carry).regs = s.regs := rfl
@[simp] theorem State.setFlags_pc (s : State) (zero carry : Bool) : (s.setFlags zero carry).pc = s.pc := rfl
@[simp] theorem State.setFlags_z (s : State) (zero carry : Bool) : (s.setFlags zero carry).z = zero := rfl
@[simp] theorem State.setFlags_c (s : State) (zero carry : Bool) : (s.setFlags zero carry).c = carry := rfl
@[simp] theorem State.setFlags_stack (s : State) (zero carry : Bool) : (s.setFlags zero carry).stack = s.stack := rfl
@[simp] theorem State.setFlags_sp (s : State) (zero carry : Bool) : (s.setFlags zero carry).sp = s.sp := rfl
@[simp] theorem State.setFlags_scratch (s : State) (zero carry : Bool) : (s.setFlags zero carry).scratch = s.scratch := rfl
@[simp] theorem State.setFlags_prog (s : State) (zero carry : Bool) : (s.setFlags zero carry).prog = s.prog := rfl
@[simp] theorem State.setFlags_loads (s : State) (zero carry : Bool) : (s.setFlags zero carry).loads = s.loads := rfl
@[simp] theorem State.setFlags_portIn (s : State) (zero carry : Bool) : (s.setFlags zero carry).portIn = s.portIn := rfl
@[simp] theorem State.setFlags_portLog (s : State) (zero carry : Bool) : (s.setFlags zero carry).portLog = s.portLog := rfl

@[simp] theorem State.setPc_regs (s : State) (t : Addr) : (s.setPc t).regs = s.regs := rfl
@[simp] theorem State.setPc_pc (s : State) (t : Addr) : (s.setPc t).pc = t := rfl
@[simp] theorem State.setPc_z (s : State) (t : Addr) : (s.setPc t).z = s.z := rfl
@[simp] theorem State.setPc_c (s : State) (t : Addr) : (s.setPc t).c = s.c := rfl
@[simp] theorem State.setPc_stack (s : State) (t : Addr) : (s.setPc t).stack = s.stack := rfl
@[simp] theorem State.setPc_sp (s : State) (t : Addr) : (s.setPc t).sp = s.sp := rfl
@[simp] theorem State.setPc_scratch (s : State) (t : Addr) : (s.setPc t).scratch = s.scratch := rfl
@[simp] theorem State.setPc_prog (s : State) (t : Addr) : (s.setPc t).prog = s.prog := rfl
@[simp] theorem State.setPc_loads (s : State) (t : Addr) : (s.setPc t).loads = s.loads := rfl
@[simp] theorem State.setPc_portIn (s : State) (t : Addr) : (s.setPc t).portIn = s.portIn := rfl
@[simp] theorem State.setPc_portLog (s : State) (t : Addr) : (s.setPc t).portLog = s.portLog := rfl

@[simp] theorem State.advance_regs (s : State) : (s.advance).regs = s.regs := rfl
@[simp] theorem State.advance_pc (s : State) : (s.advance).pc = s.pc + 1 := rfl
@[simp] theorem State.advance_z (s : State) : (s.advance).z = s.z := rfl
@[simp] theorem State.advance_c (s : State) : (s.advance).c = s.c := rfl
@[simp] theorem State.advance_stack (s : State) : (s.advance).stack = s.stack := rfl
@[simp] theorem State.advance_sp (s : State) : (s.advance).sp = s.sp := rfl
@[simp] theorem State.advance_scratch (s : State) : (s.advance).scratch = s.scratch := rfl
@[simp] theorem State.advance_prog (s : State) : (s.advance).prog = s.prog := rfl
@[simp] theorem State.advance_loads (s : State) : (s.advance).loads = s.loads := rfl
@[simp] theorem State.advance_portIn (s : State) : (s.advance).portIn = s.portIn := rfl
@[simp] theorem State.advance_portLog (s : State) : (s.advance).portLog = s.portLog := rfl

@[simp] theorem State.push_regs (s : State) (a : Addr) : (s.push a).regs = s.regs := rfl
@[simp] theorem State.push_pc (s : State) (a : Addr) : (s.push a).pc = s.pc := rfl
@[simp] theorem State.push_z (s : State) (a : Addr) : (s.push a).z = s.z := rfl
@[simp] theorem State.push_c (s : State) (a : Addr) : (s.push a).c = s.c := rfl
@[simp] theorem State.push_stack (s : State) (a : Addr) : (s.push a).stack = s.stack.set (s.sp + 1 : Fin 31) a := rfl
@[simp] theorem State.push_sp (s : State) (a : Addr) : (s.push a).sp = s.sp + 1 := rfl
@[simp] theorem State.push_scratch (s : State) (a : Addr) : (s.push a).scratch = s.scratch := rfl
@[simp] theorem State.push_prog (s : State) (a : Addr) : (s.push a).prog = s.prog := rfl
@[simp] theorem State.push_loads (s : State) (a : Addr) : (s.push a).loads = s.loads := rfl
@[simp] theorem State.push_portIn (s : State) (a : Addr) : (s.push a).portIn = s.portIn := rfl
@[simp] theorem State.push_portLog (s : State) (a : Addr) : (s.push a).portLog = s.portLog := rfl

@[simp] theorem State.pop_regs (s : State) : (s.pop).regs = s.regs := rfl
@[simp] theorem State.pop_pc (s : State) : (s.pop).pc = s.pc := rfl
@[simp] theorem State.pop_z (s : State) : (s.pop).z = s.z := rfl
@[simp] theorem State.pop_c (s : State) : (s.pop).c = s.c := rfl
@[simp] theorem State.pop_stack (s : State) : (s.pop).stack = s.stack := rfl
@[simp] theorem State.pop_sp (s : State) : (s.pop).sp = s.sp + 30 := rfl
@[simp] theorem State.pop_scratch (s : State) : (s.pop).scratch = s.scratch := rfl
@[simp] theorem State.pop_prog (s : State) : (s.pop).prog = s.prog := rfl
@[simp] theorem State.pop_loads (s : State) : (s.pop).loads = s.loads := rfl
@[simp] theorem State.pop_portIn (s : State) : (s.pop).portIn = s.portIn := rfl
@[simp] theorem State.pop_portLog (s : State) : (s.pop).portLog = s.portLog := rfl

@[simp] theorem State.writeCell_regs (s : State) (a : Nat) (v : Byte) : (s.writeCell a v).regs = s.regs := rfl
@[simp] theorem State.writeCell_pc (s : State) (a : Nat) (v : Byte) : (s.writeCell a v).pc = s.pc := rfl
@[simp] theorem State.writeCell_z (s : State) (a : Nat) (v : Byte) : (s.writeCell a v).z = s.z := rfl
@[simp] theorem State.writeCell_c (s : State) (a : Nat) (v : Byte) : (s.writeCell a v).c = s.c := rfl
@[simp] theorem State.writeCell_stack (s : State) (a : Nat) (v : Byte) : (s.writeCell a v).stack = s.stack := rfl
@[simp] theorem State.writeCell_sp (s : State) (a : Nat) (v : Byte) : (s.writeCell a v).sp = s.sp := rfl
@[simp] theorem State.writeCell_scratch (s : State) (a : Nat) (v : Byte) : (s.writeCell a v).scratch = s.scratch.write a v := rfl
@[simp] theorem State.writeCell_prog (s : State) (a : Nat) (v : Byte) : (s.writeCell a v).prog = s.prog := rfl
@[simp] theorem State.writeCell_loads (s : State) (a : Nat) (v : Byte) : (s.writeCell a v).loads = s.loads := rfl
@[simp] theorem State.writeCell_portIn (s : State) (a : Nat) (v : Byte) : (s.writeCell a v).portIn = s.portIn := rfl
@[simp] theorem State.writeCell_portLog (s : State) (a : Nat) (v : Byte) : (s.writeCell a v).portLog = s.portLog := rfl

@[simp] theorem State.portRead_regs (s : State) (p : Byte) : (s.portRead p).regs = s.regs := rfl
@[simp] theorem State.portRead_pc (s : State) (p : Byte) : (s.portRead p).pc = s.pc := rfl
@[simp] theorem State.portRead_z (s : State) (p : Byte) : (s.portRead p).z = s.z := rfl
@[simp] theorem State.portRead_c (s : State) (p : Byte) : (s.portRead p).c = s.c := rfl
@[simp] theorem State.portRead_stack (s : State) (p : Byte) : (s.portRead p).stack = s.stack := rfl
@[simp] theorem State.portRead_sp (s : State) (p : Byte) : (s.portRead p).sp = s.sp := rfl
@[simp] theorem State.portRead_scratch (s : State) (p : Byte) : (s.portRead p).scratch = s.scratch := rfl
@[simp] theorem State.portRead_prog (s : State) (p : Byte) : (s.portRead p).prog = s.prog := rfl
@[simp] theorem State.portRead_loads (s : State) (p : Byte) : (s.portRead p).loads = s.loads := rfl
@[simp] theorem State.portRead_portIn (s : State) (p : Byte) : (s.portRead p).portIn = s.portIn.tail := rfl
@[simp] theorem State.portRead_portLog (s : State) (p : Byte) : (s.portRead p).portLog = s.portLog ++ [.read p (s.portAnswer p)] := rfl

@[simp] theorem State.portWrite_regs (s : State) (p v : Byte) : (s.portWrite p v).regs = s.regs := rfl
@[simp] theorem State.portWrite_pc (s : State) (p v : Byte) : (s.portWrite p v).pc = s.pc := rfl
@[simp] theorem State.portWrite_z (s : State) (p v : Byte) : (s.portWrite p v).z = s.z := rfl
@[simp] theorem State.portWrite_c (s : State) (p v : Byte) : (s.portWrite p v).c = s.c := rfl
@[simp] theorem State.portWrite_stack (s : State) (p v : Byte) : (s.portWrite p v).stack = s.stack := rfl
@[simp] theorem State.portWrite_sp (s : State) (p v : Byte) : (s.portWrite p v).sp = s.sp := rfl
@[simp] theorem State.portWrite_scratch (s : State) (p v : Byte) : (s.portWrite p v).scratch = s.scratch := rfl
@[simp] theorem State.portWrite_prog (s : State) (p v : Byte) : (s.portWrite p v).prog = s.prog := rfl
@[simp] theorem State.portWrite_loads (s : State) (p v : Byte) : (s.portWrite p v).loads = s.loads := rfl
@[simp] theorem State.portWrite_portIn (s : State) (p v : Byte) : (s.portWrite p v).portIn = s.portIn := rfl
@[simp] theorem State.portWrite_portLog (s : State) (p v : Byte) : (s.portWrite p v).portLog = s.portLog ++ [.write p v] := rfl

@[simp] theorem State.placeWord_regs (s : State) (a : Addr) (w : Word) : (s.placeWord a w).regs = s.regs := rfl
@[simp] theorem State.placeWord_pc (s : State) (a : Addr) (w : Word) : (s.placeWord a w).pc = s.pc := rfl
@[simp] theorem State.placeWord_z (s : State) (a : Addr) (w : Word) : (s.placeWord a w).z = s.z := rfl
@[simp] theorem State.placeWord_c (s : State) (a : Addr) (w : Word) : (s.placeWord a w).c = s.c := rfl
@[simp] theorem State.placeWord_stack (s : State) (a : Addr) (w : Word) : (s.placeWord a w).stack = s.stack := rfl
@[simp] theorem State.placeWord_sp (s : State) (a : Addr) (w : Word) : (s.placeWord a w).sp = s.sp := rfl
@[simp] theorem State.placeWord_scratch (s : State) (a : Addr) (w : Word) : (s.placeWord a w).scratch = s.scratch := rfl
@[simp] theorem State.placeWord_prog (s : State) (a : Addr) (w : Word) : (s.placeWord a w).prog = insertAt a.toNat w s.prog := rfl
@[simp] theorem State.placeWord_loads (s : State) (a : Addr) (w : Word) : (s.placeWord a w).loads = s.loads := rfl
@[simp] theorem State.placeWord_portIn (s : State) (a : Addr) (w : Word) : (s.placeWord a w).portIn = s.portIn := rfl
@[simp] theorem State.placeWord_portLog (s : State) (a : Addr) (w : Word) : (s.placeWord a w).portLog = s.portLog := rfl

@[simp] theorem State.hostLoad_regs (s : State) (image : ProgramMemory) : (s.hostLoad image).regs = s.regs := rfl
@[simp] theorem State.hostLoad_pc (s : State) (image : ProgramMemory) : (s.hostLoad image).pc = s.pc := rfl
@[simp] theorem State.hostLoad_z (s : State) (image : ProgramMemory) : (s.hostLoad image).z = s.z := rfl
@[simp] theorem State.hostLoad_c (s : State) (image : ProgramMemory) : (s.hostLoad image).c = s.c := rfl
@[simp] theorem State.hostLoad_stack (s : State) (image : ProgramMemory) : (s.hostLoad image).stack = s.stack := rfl
@[simp] theorem State.hostLoad_sp (s : State) (image : ProgramMemory) : (s.hostLoad image).sp = s.sp := rfl
@[simp] theorem State.hostLoad_scratch (s : State) (image : ProgramMemory) : (s.hostLoad image).scratch = s.scratch := rfl
@[simp] theorem State.hostLoad_prog (s : State) (image : ProgramMemory) : (s.hostLoad image).prog = image := rfl
@[simp] theorem State.hostLoad_loads (s : State) (image : ProgramMemory) : (s.hostLoad image).loads = s.loads + 1 := rfl
@[simp] theorem State.hostLoad_portIn (s : State) (image : ProgramMemory) : (s.hostLoad image).portIn = s.portIn := rfl
@[simp] theorem State.hostLoad_portLog (s : State) (image : ProgramMemory) : (s.hostLoad image).portLog = s.portLog := rfl

@[simp] theorem State.reset_regs : State.reset.regs = Vector.replicate 16 0 := rfl
@[simp] theorem State.reset_pc : State.reset.pc = 0 := rfl
@[simp] theorem State.reset_z : State.reset.z = false := rfl
@[simp] theorem State.reset_c : State.reset.c = false := rfl
@[simp] theorem State.reset_stack : State.reset.stack = Vector.replicate 31 0 := rfl
@[simp] theorem State.reset_sp : State.reset.sp = 0 := rfl
@[simp] theorem State.reset_scratch : State.reset.scratch = [] := rfl
@[simp] theorem State.reset_prog : State.reset.prog = [] := rfl
@[simp] theorem State.reset_loads : State.reset.loads = 0 := rfl
@[simp] theorem State.reset_portIn : State.reset.portIn = [] := rfl
@[simp] theorem State.reset_portLog : State.reset.portLog = [] := rfl

@[simp] theorem State.hostReset_regs (s : State) : s.hostReset.regs = Vector.replicate 16 0 := rfl
@[simp] theorem State.hostReset_pc (s : State) : s.hostReset.pc = 0 := rfl
@[simp] theorem State.hostReset_z (s : State) : s.hostReset.z = false := rfl
@[simp] theorem State.hostReset_c (s : State) : s.hostReset.c = false := rfl
@[simp] theorem State.hostReset_stack (s : State) : s.hostReset.stack = Vector.replicate 31 0 := rfl
@[simp] theorem State.hostReset_sp (s : State) : s.hostReset.sp = 0 := rfl
@[simp] theorem State.hostReset_scratch (s : State) : s.hostReset.scratch = [] := rfl
@[simp] theorem State.hostReset_prog (s : State) : s.hostReset.prog = s.prog := rfl
@[simp] theorem State.hostReset_loads (s : State) : s.hostReset.loads = s.loads := rfl
@[simp] theorem State.hostReset_portIn (s : State) : s.hostReset.portIn = s.portIn := rfl
@[simp] theorem State.hostReset_portLog (s : State) : s.hostReset.portLog = s.portLog := rfl

@[simp] theorem State.clearPart_prog (s : State) (part : CorePart) : (s.clearPart part).prog = s.prog := by cases part <;> rfl
@[simp] theorem State.clearPart_loads (s : State) (part : CorePart) : (s.clearPart part).loads = s.loads := by cases part <;> rfl
@[simp] theorem State.clearPart_portIn (s : State) (part : CorePart) : (s.clearPart part).portIn = s.portIn := by cases part <;> rfl
@[simp] theorem State.clearPart_portLog (s : State) (part : CorePart) : (s.clearPart part).portLog = s.portLog := by cases part <;> rfl
@[simp] theorem State.clearPart_scratch (s : State) (part : CorePart) :
    (s.clearPart part).scratch = if part = .scratchpad then [] else s.scratch := by cases part <;> rfl

/-! ## Accessors -/

/-- A register reads back what was written to it, and a write to one register leaves the others alone. -/
theorem State.readReg_writeReg (s : State) (r q : Reg) (v : Byte) :
    (s.writeReg r v).readReg q = if q = r then v else s.readReg q := by
  by_cases h : q = r
  · subst h; simp [State.readReg, State.writeReg]
  · have h2 : (r : Nat) ≠ q := fun e => h (Fin.ext e.symm)
    simp [State.readReg, State.writeReg, h, h2]

/-- What is pushed is on top. -/
@[simp] theorem State.top_push (s : State) (a : Addr) : (s.push a).top = a := by
  simp [State.top, State.push]

/-- Push, then pop, restores the stack pointer. -/
@[simp] theorem State.pop_push_sp (s : State) (a : Addr) : (s.push a).pop.sp = s.sp := by
  simp only [State.pop_sp, State.push_sp]; omega

end Sys2Proof.Machine
end

