-- ==== Sys2Proof/Laws/Memory.lean ====
section
/-! SUPPORT. The sparse memories: reading after a write, and the canonical form that every operation keeps. -/

namespace Sys2Proof.Machine

variable {α : Type}

theorem lookupAt_insertAt (a b : Nat) (v : α) (m : List (Nat × α)) :
    lookupAt b (insertAt a v m) = if b = a then some v else lookupAt b m := by
  by_cases h : b = a
  · subst h
    induction m with
    | nil => simp [insertAt, lookupAt]
    | cons cell rest ih =>
      obtain ⟨k, u⟩ := cell
      simp only [insertAt]
      split
      · simp [lookupAt]
      · split
        · simp [lookupAt]
        · rename_i hk; simp [lookupAt, hk, ih]
  · have h' : a ≠ b := Ne.symm h
    induction m with
    | nil => simp [insertAt, lookupAt, h, h']
    | cons cell rest ih =>
      obtain ⟨k, u⟩ := cell
      simp only [insertAt]
      split
      · simp [lookupAt, h']
      · split
        · rename_i hk; subst hk; simp [lookupAt, h']
        · simp only [lookupAt, ih, if_neg h]

theorem lookupAt_eraseAt (a b : Nat) (m : List (Nat × α)) :
    lookupAt b (eraseAt a m) = if b = a then none else lookupAt b m := by
  unfold eraseAt
  induction m with
  | nil => simp [lookupAt]
  | cons cell rest ih =>
    obtain ⟨k, u⟩ := cell
    by_cases h1 : k = a
    · subst h1
      by_cases h : b = k
      · simpa [h] using ih
      · simp [lookupAt, h, Ne.symm h]; simpa [h] using ih
    · by_cases h : k = b
      · subst h; simp [lookupAt, h1]
      · simp [lookupAt, h1, h]; simpa using ih

/-- Reading after a write: the written cell gives the value, every other cell is as before. -/
theorem Memory.read_write (m : Memory) (a b : Nat) (v : Byte) :
    (m.write a v).read b = if b = a then v else m.read b := by
  unfold Memory.write Memory.read
  by_cases hv : v = 0
  · by_cases h : b = a <;> simp [hv, lookupAt_eraseAt, h]
  · rw [if_neg hv, lookupAt_insertAt]
    split <;> rfl

theorem mem_insertAt {a : Nat} {v : α} {m : List (Nat × α)} {cell : Nat × α}
    (h : cell ∈ insertAt a v m) : cell = (a, v) ∨ cell ∈ m := by
  induction m with
  | nil => simpa [insertAt] using h
  | cons head rest ih =>
    simp only [insertAt] at h
    split at h
    · simpa using h
    · split at h
      · rcases List.mem_cons.1 h with h | h
        · exact .inl h
        · exact .inr (List.mem_cons_of_mem _ h)
      · rcases List.mem_cons.1 h with h | h
        · exact .inr (h ▸ List.mem_cons_self)
        · exact (ih h).imp_right (List.mem_cons_of_mem _)

theorem rising_insertAt (a : Nat) (v : α) {m : List (Nat × α)} (h : Rising m) : Rising (insertAt a v m) := by
  induction m with
  | nil => simp [insertAt, Rising]
  | cons head rest ih =>
    obtain ⟨k, u⟩ := head
    obtain ⟨hk, hr⟩ := List.pairwise_cons.1 h
    simp only [insertAt]
    split
    · rename_i hlt
      refine List.pairwise_cons.2 ⟨fun cell hc => ?_, h⟩
      rcases List.mem_cons.1 hc with rfl | hc
      · exact hlt
      · exact Nat.lt_trans hlt (hk cell hc)
    · split
      · rename_i _ he
        subst he
        exact List.pairwise_cons.2 ⟨hk, hr⟩
      · rename_i hnlt hne
        refine List.pairwise_cons.2 ⟨fun cell hc => ?_, ih hr⟩
        rcases mem_insertAt hc with rfl | hc
        · show k < a; omega
        · exact hk cell hc

theorem rising_eraseAt (a : Nat) {m : List (Nat × α)} (h : Rising m) : Rising (eraseAt a m) :=
  List.Pairwise.sublist List.filter_sublist h

/-- A word is read from where it was placed, and placing it changes no other address. -/
theorem State.wordAt_placeWord (s : State) (a b : Addr) (w : Word) :
    (s.placeWord a w).wordAt b = if b = a then w else s.wordAt b := by
  unfold State.wordAt
  rw [State.placeWord_prog, lookupAt_insertAt]
  by_cases h : b = a
  · simp [h]
  · simp [h, BitVec.toNat_inj]

/-- Every scratchpad write keeps the canonical form. -/
theorem Memory.wf_write {m : Memory} (h : Memory.wf m) {a : Nat} (ha : a < 64) (v : Byte) :
    Memory.wf (m.write a v) := by
  unfold Memory.write
  split
  · exact ⟨rising_eraseAt a h.1, fun cell hc => h.2 cell (List.mem_of_mem_filter hc)⟩
  · rename_i hv
    refine ⟨rising_insertAt a v h.1, fun cell hc => ?_⟩
    rcases mem_insertAt hc with rfl | hc
    · exact ⟨ha, hv⟩
    · exact h.2 cell hc

/-- Placing a word keeps the canonical form of program memory. -/
theorem ProgramMemory.wf_insertAt {m : ProgramMemory} (h : ProgramMemory.wf m) (a : Addr) (w : Word) :
    ProgramMemory.wf (insertAt a.toNat w m) := by
  refine ⟨rising_insertAt _ _ h.1, fun cell hc => ?_⟩
  rcases mem_insertAt hc with rfl | hc
  · exact a.isLt
  · exact h.2 cell hc

/-- Two scratchpads in canonical form that read the same at every address are the same list. -/
theorem Memory.wf_ext {m n : Memory} (hm : Memory.wf m) (hn : Memory.wf n)
    (h : ∀ a, m.read a = n.read a) : m = n := by
  have none_below : ∀ {k : Memory} {a : Nat}, (∀ cell ∈ k, a < cell.1) → lookupAt a k = none := by
    intro k a
    induction k with
    | nil => intro _; rfl
    | cons head rest ih =>
      intro hk
      have h1 := hk head List.mem_cons_self
      simp only [lookupAt]
      rw [if_neg (by omega)]
      exact ih fun cell hc => hk cell (List.mem_cons_of_mem _ hc)
  induction m generalizing n with
  | nil =>
    cases n with
    | nil => rfl
    | cons head rest =>
      have h1 := h head.1
      have h2 := (hn.2 head List.mem_cons_self).2
      simp [Memory.read, lookupAt] at h1
      exact absurd h1.symm h2
  | cons p ps ih =>
    cases n with
    | nil =>
      have h1 := h p.1
      have h2 := (hm.2 p List.mem_cons_self).2
      simp [Memory.read, lookupAt] at h1
      exact absurd h1 h2
    | cons q qs =>
      obtain ⟨hp, hps⟩ := List.pairwise_cons.1 hm.1
      obtain ⟨hq, hqs⟩ := List.pairwise_cons.1 hn.1
      have hp0 := (hm.2 p List.mem_cons_self).2
      have hq0 := (hn.2 q List.mem_cons_self).2
      have key : p.1 = q.1 := by
        rcases Nat.lt_trichotomy p.1 q.1 with hlt | heq | hlt
        · have h1 := h p.1
          have h2 : lookupAt p.1 qs = none := none_below fun cell hc => Nat.lt_trans hlt (hq cell hc)
          simp [Memory.read, lookupAt, (show q.1 ≠ p.1 by omega), h2] at h1
          exact absurd h1 hp0
        · exact heq
        · have h1 := h q.1
          have h2 : lookupAt q.1 ps = none := none_below fun cell hc => Nat.lt_trans hlt (hp cell hc)
          simp [Memory.read, lookupAt, (show p.1 ≠ q.1 by omega), h2] at h1
          exact absurd h1.symm hq0
      have val : p.2 = q.2 := by
        have h1 := h p.1
        simpa [Memory.read, lookupAt, key] using h1
      have tail : ps = qs := by
        refine ih ⟨hps, fun c hc => hm.2 c (List.mem_cons_of_mem _ hc)⟩
          ⟨hqs, fun c hc => hn.2 c (List.mem_cons_of_mem _ hc)⟩ fun a => ?_
        by_cases ha : p.1 = a
        · have h1 : lookupAt a ps = none := none_below (by subst ha; exact hp)
          have h2 : lookupAt a qs = none := none_below (by rw [← ha, key]; exact hq)
          simp [Memory.read, h1, h2]
        · have h1 := h a
          simpa [Memory.read, lookupAt, ha, (show q.1 ≠ a by omega)] using h1
      exact congrArg₂ List.cons (Prod.ext key val) tail

end Sys2Proof.Machine
end

