-- ==== Sys2Proof/Laws/Exec.lean ====
section
/-! SUPPORT. For each shared operation of the meanings, once, everything it can do: the next state it answers, or the
one fault it takes. -/

namespace Sys2Proof.Machine

/-! ## Operations that always answer a next state -/

theorem aluWrite_next {op : AluOp} {x : Reg} {src : Src} {s t : State} (h : aluWrite op x src s = .next t) :
    t = ((s.writeReg x (alu op (s.readReg x) (src.value s) s.c).result).setFlags
      (alu op (s.readReg x) (src.value s) s.c).zero (alu op (s.readReg x) (src.value s) s.c).carry).advance :=
  (Host.Outcome.next.inj h).symm

theorem aluDiscard_next {op : AluOp} {x : Reg} {src : Src} {s t : State} (h : aluDiscard op x src s = .next t) :
    t = (s.setFlags (alu op (s.readReg x) (src.value s) s.c).zero
      (alu op (s.readReg x) (src.value s) s.c).carry).advance :=
  (Host.Outcome.next.inj h).symm

theorem shiftWrite_next {op : AluOp} {x : Reg} {s t : State} (h : shiftWrite op x s = .next t) :
    t = ((s.writeReg x (alu op (s.readReg x) 0 s.c).result).setFlags
      (alu op (s.readReg x) 0 s.c).zero (alu op (s.readReg x) 0 s.c).carry).advance :=
  (Host.Outcome.next.inj h).symm

theorem jumpTo_next {d : Byte} {s t : State} (h : jumpTo d s = .next t) : t = s.setPc (targetAddr d) :=
  (Host.Outcome.next.inj h).symm

theorem callTo_next {d : Byte} {s t : State} (h : callTo d s = .next t) :
    t = (s.push s.pc).setPc (targetAddr d) :=
  (Host.Outcome.next.inj h).symm

theorem returnToCaller_next {s t : State} (h : returnToCaller s = .next t) : t = s.pop.setPc (s.top + 1) :=
  (Host.Outcome.next.inj h).symm

theorem inputPort_next {x : Reg} {src : Src} {s t : State} (h : inputPort x src s = .next t) :
    t = ((s.portRead (src.value s)).writeReg x (s.portAnswer (src.value s))).advance :=
  (Host.Outcome.next.inj h).symm

theorem outputPort_next {x : Reg} {src : Src} {s t : State} (h : outputPort x src s = .next t) :
    t = (s.portWrite (src.value s) (s.readReg x)).advance :=
  (Host.Outcome.next.inj h).symm

/-! ## Operations with two outcomes -/

/-- A conditional instruction acts when its condition holds and else only advances. -/
theorem whenCond_eq (cc : Cond) (action : State → Result) (s : State) :
    (condHolds cc s = true ∧ whenCond cc action s = action s) ∨
      (condHolds cc s = false ∧ whenCond cc action s = .next s.advance) := by
  cases h : condHolds cc s <;> simp [whenCond, h]

theorem fetchCell_ok {x : Reg} {src : Src} {s : State} (h : (src.value s).toNat < 64) :
    fetchCell x src s = .next (s.writeReg x (s.readCell (src.value s).toNat)).advance := by
  simp [fetchCell, scratchAddressOk, h]

theorem fetchCell_fault {x : Reg} {src : Src} {s : State} (h : 63 < (src.value s).toNat) :
    fetchCell x src s = .fault (.scratchpadAddressOutOfRange (src.value s)) := by
  simp [fetchCell, scratchAddressOk, raise, Nat.not_lt.2 (Nat.succ_le_of_lt h)]

theorem storeCell_ok {x : Reg} {src : Src} {s : State} (h : (src.value s).toNat < 64) :
    storeCell x src s = .next (s.writeCell (src.value s).toNat (s.readReg x)).advance := by
  simp [storeCell, scratchAddressOk, h]

theorem storeCell_fault {x : Reg} {src : Src} {s : State} (h : 63 < (src.value s).toNat) :
    storeCell x src s = .fault (.scratchpadAddressOutOfRange (src.value s)) := by
  simp [storeCell, scratchAddressOk, raise, Nat.not_lt.2 (Nat.succ_le_of_lt h)]

theorem fetchCell_next {x : Reg} {src : Src} {s t : State} (h : fetchCell x src s = .next t) :
    (src.value s).toNat < 64 ∧ t = (s.writeReg x (s.readCell (src.value s).toNat)).advance := by
  by_cases ha : (src.value s).toNat < 64
  · rw [fetchCell_ok ha] at h; exact ⟨ha, (Host.Outcome.next.inj h).symm⟩
  · rw [fetchCell_fault (by omega)] at h; cases h

theorem storeCell_next {x : Reg} {src : Src} {s t : State} (h : storeCell x src s = .next t) :
    (src.value s).toNat < 64 ∧ t = (s.writeCell (src.value s).toNat (s.readReg x)).advance := by
  by_cases ha : (src.value s).toNat < 64
  · rw [storeCell_ok ha] at h; exact ⟨ha, (Host.Outcome.next.inj h).symm⟩
  · rw [storeCell_fault (by omega)] at h; cases h

/-! ## The step and its caller -/

theorem step_of_decode {s : State} {i : Instr} (h : decode s.fetch = .ok i) : step s = exec i s := by
  simp only [step, h]

theorem step_of_illegal {s : State} {cause : IllegalCause} (h : decode s.fetch = .error cause) :
    step s = .fault (.illegalInstruction cause s.fetch) := by
  simp only [step, h, raise]

/-- A step that answers a next state ran an instruction of the machine. -/
theorem step_next {s t : State} (h : step s = .next t) : ∃ i, decode s.fetch = .ok i ∧ exec i s = .next t := by
  cases hd : decode s.fetch with
  | ok i => exact ⟨i, rfl, by rw [← step_of_decode hd]; exact h⟩
  | error cause => rw [step_of_illegal hd] at h; cases h

theorem stepCall_of_next {s t : State} (h : step s = .next t) : stepCall s = (t, none) := by
  simp only [stepCall, h]

theorem stepCall_of_fault {s : State} {f : Fault} (h : step s = .fault f) : stepCall s = (s, some (.fault f)) := by
  simp only [stepCall, h]

end Sys2Proof.Machine
end

