-- ==== Sys2Proof/Laws/PerInstr.lean ====
section
/-! SUPPORT. Statements for all instructions, one lemma per constructor. -/

namespace Sys2Proof.Laws

/-! ## The fixed bits of each format -/

theorem and_append (a c : BitVec n) (b d : BitVec m) : (a ++ b) &&& (c ++ d) = (a &&& c) ++ (b &&& d) := by
  ext i hi
  simp only [BitVec.getElem_and, BitVec.getElem_append]
  split <;> simp

theorem formRI_fixed (g : BitVec 6) (x : Reg) (k : Byte) :
    formRI g x k &&& (BitVec.allOnes 6 ++ 0#4 ++ 0#8) = g ++ 0#4 ++ 0#8 := by
  rw [formRI, and_append, and_append]
  simp only [BitVec.and_allOnes, BitVec.and_zero]

theorem formRR_fixed (g : BitVec 6) (x y : Reg) :
    formRR g x y &&& (BitVec.allOnes 6 ++ 0#4 ++ 0#4 ++ 0#4) = g ++ 0#4 ++ 0#4 ++ 0#4 := by
  rw [formRR, and_append, and_append, and_append]
  simp only [BitVec.and_allOnes, BitVec.and_zero]

theorem formSH_fixed (x : Reg) (sel : BitVec 4) :
    formSH x sel &&& (BitVec.allOnes 6 ++ 0#4 ++ 0#4 ++ BitVec.allOnes 4) = 0x20#6 ++ 0#4 ++ 0#4 ++ sel := by
  rw [formSH, and_append, and_append, and_append]
  simp only [BitVec.and_allOnes, BitVec.and_zero]

theorem formB_fixed (g : BitVec 6) (t : Byte) :
    formB g t &&& (BitVec.allOnes 6 ++ 0#4 ++ 0#8) = g ++ 0#4 ++ 0#8 := by
  rw [formB, and_append, and_append]
  simp only [BitVec.and_allOnes, BitVec.and_zero]

theorem formBC_fixed (g : BitVec 6) (f : BitVec 4) (t : Byte) :
    formBC g f t &&& (BitVec.allOnes 6 ++ BitVec.allOnes 4 ++ 0#8) = g ++ f ++ 0#8 := by
  rw [formBC, and_append, and_append]
  simp only [BitVec.and_allOnes, BitVec.and_zero]

theorem formRTC_fixed (f : BitVec 4) :
    formRTC f &&& (BitVec.allOnes 6 ++ BitVec.allOnes 4 ++ 0#8) = 0x2B#6 ++ f ++ 0#8 := by
  rw [formRTC, and_append, and_append]
  simp only [BitVec.and_allOnes, BitVec.and_zero]

/-! ## Every instruction's word matches its row of the table -/

/-- The encoder's word of an instruction matches the instruction's row of spec/opcode_table.json
(spec/30_encoding.md rule R94). -/
def MatchesTableRow.Statement (i : Instr) : Prop := encode i &&& (rowOf i).mask = (rowOf i).pattern

theorem MatchesTableRow.loadImm (x : Reg) (k : Byte) : MatchesTableRow.Statement (.loadImm x k) := (formRI_fixed 0x00 x k).trans rfl
theorem MatchesTableRow.loadReg (x : Reg) (y : Reg) : MatchesTableRow.Statement (.loadReg x y) := (formRR_fixed 0x01 x y).trans rfl
theorem MatchesTableRow.andImm (x : Reg) (k : Byte) : MatchesTableRow.Statement (.andImm x k) := (formRI_fixed 0x0A x k).trans rfl
theorem MatchesTableRow.andReg (x : Reg) (y : Reg) : MatchesTableRow.Statement (.andReg x y) := (formRR_fixed 0x0B x y).trans rfl
theorem MatchesTableRow.orImm (x : Reg) (k : Byte) : MatchesTableRow.Statement (.orImm x k) := (formRI_fixed 0x0C x k).trans rfl
theorem MatchesTableRow.orReg (x : Reg) (y : Reg) : MatchesTableRow.Statement (.orReg x y) := (formRR_fixed 0x0D x y).trans rfl
theorem MatchesTableRow.xorImm (x : Reg) (k : Byte) : MatchesTableRow.Statement (.xorImm x k) := (formRI_fixed 0x0E x k).trans rfl
theorem MatchesTableRow.xorReg (x : Reg) (y : Reg) : MatchesTableRow.Statement (.xorReg x y) := (formRR_fixed 0x0F x y).trans rfl
theorem MatchesTableRow.addImm (x : Reg) (k : Byte) : MatchesTableRow.Statement (.addImm x k) := (formRI_fixed 0x18 x k).trans rfl
theorem MatchesTableRow.addReg (x : Reg) (y : Reg) : MatchesTableRow.Statement (.addReg x y) := (formRR_fixed 0x19 x y).trans rfl
theorem MatchesTableRow.addcyImm (x : Reg) (k : Byte) : MatchesTableRow.Statement (.addcyImm x k) := (formRI_fixed 0x1A x k).trans rfl
theorem MatchesTableRow.addcyReg (x : Reg) (y : Reg) : MatchesTableRow.Statement (.addcyReg x y) := (formRR_fixed 0x1B x y).trans rfl
theorem MatchesTableRow.subImm (x : Reg) (k : Byte) : MatchesTableRow.Statement (.subImm x k) := (formRI_fixed 0x1C x k).trans rfl
theorem MatchesTableRow.subReg (x : Reg) (y : Reg) : MatchesTableRow.Statement (.subReg x y) := (formRR_fixed 0x1D x y).trans rfl
theorem MatchesTableRow.subcyImm (x : Reg) (k : Byte) : MatchesTableRow.Statement (.subcyImm x k) := (formRI_fixed 0x1E x k).trans rfl
theorem MatchesTableRow.subcyReg (x : Reg) (y : Reg) : MatchesTableRow.Statement (.subcyReg x y) := (formRR_fixed 0x1F x y).trans rfl
theorem MatchesTableRow.compareImm (x : Reg) (k : Byte) : MatchesTableRow.Statement (.compareImm x k) := (formRI_fixed 0x14 x k).trans rfl
theorem MatchesTableRow.compareReg (x : Reg) (y : Reg) : MatchesTableRow.Statement (.compareReg x y) := (formRR_fixed 0x15 x y).trans rfl
theorem MatchesTableRow.testImm (x : Reg) (k : Byte) : MatchesTableRow.Statement (.testImm x k) := (formRI_fixed 0x12 x k).trans rfl
theorem MatchesTableRow.testReg (x : Reg) (y : Reg) : MatchesTableRow.Statement (.testReg x y) := (formRR_fixed 0x13 x y).trans rfl
theorem MatchesTableRow.rl (x : Reg) : MatchesTableRow.Statement (.rl x) := (formSH_fixed x 0x2).trans rfl
theorem MatchesTableRow.rr (x : Reg) : MatchesTableRow.Statement (.rr x) := (formSH_fixed x 0xC).trans rfl
theorem MatchesTableRow.sl0 (x : Reg) : MatchesTableRow.Statement (.sl0 x) := (formSH_fixed x 0x6).trans rfl
theorem MatchesTableRow.sl1 (x : Reg) : MatchesTableRow.Statement (.sl1 x) := (formSH_fixed x 0x7).trans rfl
theorem MatchesTableRow.sla (x : Reg) : MatchesTableRow.Statement (.sla x) := (formSH_fixed x 0x0).trans rfl
theorem MatchesTableRow.slx (x : Reg) : MatchesTableRow.Statement (.slx x) := (formSH_fixed x 0x4).trans rfl
theorem MatchesTableRow.sr0 (x : Reg) : MatchesTableRow.Statement (.sr0 x) := (formSH_fixed x 0xE).trans rfl
theorem MatchesTableRow.sr1 (x : Reg) : MatchesTableRow.Statement (.sr1 x) := (formSH_fixed x 0xF).trans rfl
theorem MatchesTableRow.sra (x : Reg) : MatchesTableRow.Statement (.sra x) := (formSH_fixed x 0x8).trans rfl
theorem MatchesTableRow.srx (x : Reg) : MatchesTableRow.Statement (.srx x) := (formSH_fixed x 0xA).trans rfl
theorem MatchesTableRow.jump (t : Byte) : MatchesTableRow.Statement (.jump t) := (formB_fixed 0x34 t).trans rfl
theorem MatchesTableRow.jumpZ (t : Byte) : MatchesTableRow.Statement (.jumpZ t) := (formBC_fixed 0x35 0x0 t).trans rfl
theorem MatchesTableRow.jumpNZ (t : Byte) : MatchesTableRow.Statement (.jumpNZ t) := (formBC_fixed 0x35 0x4 t).trans rfl
theorem MatchesTableRow.jumpC (t : Byte) : MatchesTableRow.Statement (.jumpC t) := (formBC_fixed 0x35 0x8 t).trans rfl
theorem MatchesTableRow.jumpNC (t : Byte) : MatchesTableRow.Statement (.jumpNC t) := (formBC_fixed 0x35 0xC t).trans rfl
theorem MatchesTableRow.call (t : Byte) : MatchesTableRow.Statement (.call t) := (formB_fixed 0x30 t).trans rfl
theorem MatchesTableRow.callZ (t : Byte) : MatchesTableRow.Statement (.callZ t) := (formBC_fixed 0x31 0x0 t).trans rfl
theorem MatchesTableRow.callNZ (t : Byte) : MatchesTableRow.Statement (.callNZ t) := (formBC_fixed 0x31 0x4 t).trans rfl
theorem MatchesTableRow.callC (t : Byte) : MatchesTableRow.Statement (.callC t) := (formBC_fixed 0x31 0x8 t).trans rfl
theorem MatchesTableRow.callNC (t : Byte) : MatchesTableRow.Statement (.callNC t) := (formBC_fixed 0x31 0xC t).trans rfl
theorem MatchesTableRow.ret : MatchesTableRow.Statement .ret := rfl
theorem MatchesTableRow.retZ : MatchesTableRow.Statement (.retZ) := (formRTC_fixed 0x0).trans rfl
theorem MatchesTableRow.retNZ : MatchesTableRow.Statement (.retNZ) := (formRTC_fixed 0x4).trans rfl
theorem MatchesTableRow.retC : MatchesTableRow.Statement (.retC) := (formRTC_fixed 0x8).trans rfl
theorem MatchesTableRow.retNC : MatchesTableRow.Statement (.retNC) := (formRTC_fixed 0xC).trans rfl
theorem MatchesTableRow.fetchImm (x : Reg) (a : Byte) : MatchesTableRow.Statement (.fetchImm x a) := (formRI_fixed 0x06 x a).trans rfl
theorem MatchesTableRow.fetchInd (x : Reg) (y : Reg) : MatchesTableRow.Statement (.fetchInd x y) := (formRR_fixed 0x07 x y).trans rfl
theorem MatchesTableRow.storeImm (x : Reg) (a : Byte) : MatchesTableRow.Statement (.storeImm x a) := (formRI_fixed 0x2E x a).trans rfl
theorem MatchesTableRow.storeInd (x : Reg) (y : Reg) : MatchesTableRow.Statement (.storeInd x y) := (formRR_fixed 0x2F x y).trans rfl
theorem MatchesTableRow.inputImm (x : Reg) (p : Byte) : MatchesTableRow.Statement (.inputImm x p) := (formRI_fixed 0x04 x p).trans rfl
theorem MatchesTableRow.inputInd (x : Reg) (y : Reg) : MatchesTableRow.Statement (.inputInd x y) := (formRR_fixed 0x05 x y).trans rfl
theorem MatchesTableRow.outputImm (x : Reg) (p : Byte) : MatchesTableRow.Statement (.outputImm x p) := (formRI_fixed 0x2C x p).trans rfl
theorem MatchesTableRow.outputInd (x : Reg) (y : Reg) : MatchesTableRow.Statement (.outputInd x y) := (formRR_fixed 0x2D x y).trans rfl

end Sys2Proof.Laws
end

