-- ==== Sys2Proof/Tests/Slice0.lean ====
section
/-! SUPPORT. Tests. What each expects is written from the spec: the words from the encodings of spec/opcode_table.json, the
steps from the vectors of spec/95_test_vectors.md. The last part shows, for each statement of
Certificates/Slice0/Obligations.lean that has hypotheses, a state and operands that meet them. -/

namespace Sys2Proof.Tests

open Sys2Proof.Machine

/-! ## Helpers -/

/-- The reset state with a word placed at `pc`, flags and registers set. -/
def start (pc : Addr) (w : Word) (z c : Bool) (regs : List (Reg × Byte)) : State :=
  { (regs.foldl (fun s r => s.writeReg r.1 r.2) (State.reset.placeWord pc w)) with pc := pc, z := z, c := c }

/-- The next state of a step, if it answers one. -/
def nextOf (s : State) : Option State :=
  match step s with
  | .next t => some t
  | .fault _ => none
  | .refused _ => none

/-- The fault of a step, if it takes one. -/
def stopOf (s : State) : Option Fault :=
  match step s with
  | .next _ => none
  | .fault f => some f
  | .refused _ => none

/-- A register, Z, C and pc after a step. -/
def seenReg (r : Reg) (s : State) : Option (Byte × Bool × Bool × Addr) :=
  (nextOf s).map fun t => (t.readReg r, t.z, t.c, t.pc)

/-- pc, sp, a stack slot, Z and C after a step. -/
def seenRing (k : Fin 31) (s : State) : Option (Addr × Fin 31 × Addr × Bool × Bool) :=
  (nextOf s).map fun t => (t.pc, t.sp, t.stack[k], t.z, t.c)

/-- A scratchpad cell, Z, C and pc after a step. -/
def seenCell (a : Nat) (s : State) : Option (Byte × Bool × Bool × Addr) :=
  (nextOf s).map fun t => (t.readCell a, t.z, t.c, t.pc)

/-- A register, the port events, Z and C after a step. -/
def seenPort (r : Reg) (s : State) : Option (Byte × List PortEvent × Bool × Bool) :=
  (nextOf s).map fun t => (t.readReg r, t.portLog, t.z, t.c)

/-- What the decoder makes of each word. -/
def decodes (ws : List Word) : List (Option Instr) := ws.map fun w => (decode w).toOption

/-! ## Well-formedness: an ill-formed term for each check -/

theorem test_illegal_group_refused : legalWord 0x3F000 = false ∧ illegality 0x29FFF = some .group := by decide

theorem test_every_illegal_group_is_refused :
    ∀ g : BitVec 6, g.toNat ∈ illegalGroups → legalWord (g ++ 0#12) = false := by decide

theorem test_illegal_selector_refused : illegality 0x2000D = some .selector ∧ legalWord 0x20001 = false := by decide

theorem test_illegal_condition_refused :
    illegality 0x35130 = some .condition ∧ illegality 0x31F00 = some .condition ∧
      illegality 0x2B200 = some .condition := by decide

/-- Rule R90: one word of each format with an unexamined bit set is legal and not canonical. -/
theorem test_noncanonical_refused :
    ([0x19121, 0x20112, 0x30140, 0x34820, 0x2A001, 0x2B4AB] : List Word).map canonicalWord =
        [false, false, false, false, false, false] ∧
      ([0x19121, 0x20112, 0x30140, 0x34820, 0x2A001, 0x2B4AB] : List Word).map legalWord =
        [true, true, true, true, true, true] := by decide

theorem test_canonical_accepted : canonicalWord 0x19120 = true ∧ canonicalWord 0x31450 = true := by decide

theorem test_literal_address_refused :
    literalInBounds (.fetchImm 3 0x40) = false ∧ literalInBounds (.storeImm 1 0xFF) = false ∧
      literalInBounds (.fetchImm 3 0x3F) = true := by decide

/-- Rule R93: a number of more than 18 bits is no word. -/
theorem test_wide_number_is_no_word :
    decodeTableWord 24 0x40000 = none ∧ decodeTableWord 24 0x001FF = some (.loadImm 1 0xFF) := by decide

/-- The word the host places is the one the next step runs. -/
theorem test_withFetchWord : seenReg 1 (State.reset.withFetchWord 24 0x001FF) = some (0xFF, false, false, 1) := by
  decide

/-- Rule R92: a comment, an address line, an empty line and two tokens; a token that is no word is refused. -/
theorem test_program_text :
    wordsOfText ['@', '0', '\n', '0', '0', '1', 'f', 'F', '\n', '\n', ';', 'x', '\n', '3', '4', '0', '0', '6'] =
        some [0x001FF, 0x34006] ∧
      wordsOfText ['4', '0', '0', '0', '0'] = none ∧ wordsOfText ['0', 'g'] = none := by decide

/-! ## Decoding (spec/opcode_table.json) -/

/-- Every row of spec/opcode_table.json of 40_alu.md, its operand bits 1010, 0011 and 11000101, its unexamined bits 1. -/
theorem test_decode_alu :
    decodes [
      0b000000_1010_11000101,
      0b000001_1010_00111111,
      0b001010_1010_11000101,
      0b001011_1010_00111111,
      0b001100_1010_11000101,
      0b001101_1010_00111111,
      0b001110_1010_11000101,
      0b001111_1010_00111111,
      0b011000_1010_11000101,
      0b011001_1010_00111111,
      0b011010_1010_11000101,
      0b011011_1010_00111111,
      0b011100_1010_11000101,
      0b011101_1010_00111111,
      0b011110_1010_11000101,
      0b011111_1010_00111111,
      0b010100_1010_11000101,
      0b010101_1010_00111111,
      0b010010_1010_11000101,
      0b010011_1010_00111111] =
    [
      some (.loadImm 0xA 0xC5),
      some (.loadReg 0xA 0x3),
      some (.andImm 0xA 0xC5),
      some (.andReg 0xA 0x3),
      some (.orImm 0xA 0xC5),
      some (.orReg 0xA 0x3),
      some (.xorImm 0xA 0xC5),
      some (.xorReg 0xA 0x3),
      some (.addImm 0xA 0xC5),
      some (.addReg 0xA 0x3),
      some (.addcyImm 0xA 0xC5),
      some (.addcyReg 0xA 0x3),
      some (.subImm 0xA 0xC5),
      some (.subReg 0xA 0x3),
      some (.subcyImm 0xA 0xC5),
      some (.subcyReg 0xA 0x3),
      some (.compareImm 0xA 0xC5),
      some (.compareReg 0xA 0x3),
      some (.testImm 0xA 0xC5),
      some (.testReg 0xA 0x3)] := by decide

/-- Every row of spec/opcode_table.json of 41_shift_rotate.md, its operand bits 1010, 0011 and 11000101, its unexamined bits 1. -/
theorem test_decode_shift :
    decodes [
      0b100000_1010_11110010,
      0b100000_1010_11111100,
      0b100000_1010_11110110,
      0b100000_1010_11110111,
      0b100000_1010_11110000,
      0b100000_1010_11110100,
      0b100000_1010_11111110,
      0b100000_1010_11111111,
      0b100000_1010_11111000,
      0b100000_1010_11111010] =
    [
      some (.rl 0xA),
      some (.rr 0xA),
      some (.sl0 0xA),
      some (.sl1 0xA),
      some (.sla 0xA),
      some (.slx 0xA),
      some (.sr0 0xA),
      some (.sr1 0xA),
      some (.sra 0xA),
      some (.srx 0xA)] := by decide

/-- Every row of spec/opcode_table.json of 42_control_flow.md, its operand bits 1010, 0011 and 11000101, its unexamined bits 1. -/
theorem test_decode_control :
    decodes [
      0b110100_1111_11000101,
      0b110101_0000_11000101,
      0b110101_0100_11000101,
      0b110101_1000_11000101,
      0b110101_1100_11000101,
      0b110000_1111_11000101,
      0b110001_0000_11000101,
      0b110001_0100_11000101,
      0b110001_1000_11000101,
      0b110001_1100_11000101,
      0b101010_1111_11111111,
      0b101011_0000_11111111,
      0b101011_0100_11111111,
      0b101011_1000_11111111,
      0b101011_1100_11111111] =
    [
      some (.jump 0xC5),
      some (.jumpZ 0xC5),
      some (.jumpNZ 0xC5),
      some (.jumpC 0xC5),
      some (.jumpNC 0xC5),
      some (.call 0xC5),
      some (.callZ 0xC5),
      some (.callNZ 0xC5),
      some (.callC 0xC5),
      some (.callNC 0xC5),
      some (.ret),
      some (.retZ),
      some (.retNZ),
      some (.retC),
      some (.retNC)] := by decide

/-- Every row of spec/opcode_table.json of 43_memory_port.md, its operand bits 1010, 0011 and 11000101, its unexamined bits 1. -/
theorem test_decode_memory_port :
    decodes [
      0b000110_1010_11000101,
      0b000111_1010_00111111,
      0b101110_1010_11000101,
      0b101111_1010_00111111,
      0b000100_1010_11000101,
      0b000101_1010_00111111,
      0b101100_1010_11000101,
      0b101101_1010_00111111] =
    [
      some (.fetchImm 0xA 0xC5),
      some (.fetchInd 0xA 0x3),
      some (.storeImm 0xA 0xC5),
      some (.storeInd 0xA 0x3),
      some (.inputImm 0xA 0xC5),
      some (.inputInd 0xA 0x3),
      some (.outputImm 0xA 0xC5),
      some (.outputInd 0xA 0x3)] := by decide

/-! ## One step (spec/95_test_vectors.md) -/

/-- spec/95_test_vectors.md A2, `LOAD s0, 0x00`. -/
theorem test_A2 :
    seenReg 0x0 (start 0x000 0x00000 false true [(0x0, 0x12)]) = some (0x00, true, false, 0x001) := by decide

/-- spec/95_test_vectors.md A41, `LOAD s3, 0x00`. -/
theorem test_A41 :
    seenReg 0x3 (start 0x3FF 0x00300 false false [(0x3, 0x44)]) = some (0x00, true, false, 0x000) := by decide

/-- spec/95_test_vectors.md A3, `LOAD s3, s2`. -/
theorem test_A3 :
    seenReg 0x3 (start 0x000 0x01320 false true [(0x3, 0x77)]) = some (0x00, true, false, 0x001) := by decide

/-- spec/95_test_vectors.md A4, `LOAD s4, s4`. -/
theorem test_A4 :
    seenReg 0x4 (start 0x000 0x01440 true true [(0x4, 0x80)]) = some (0x80, false, false, 0x001) := by decide

/-- spec/95_test_vectors.md A6, `AND s0, s1`. -/
theorem test_A6 :
    seenReg 0x0 (start 0x000 0x0B010 false false [(0x0, 0x0F), (0x1, 0xF0)]) = some (0x00, true, false, 0x001) := by decide

/-- spec/95_test_vectors.md A8, `AND s1, 0xFF`. -/
theorem test_A8 :
    seenReg 0x1 (start 0x000 0x0A1FF false true [(0x1, 0x5A)]) = some (0x5A, false, false, 0x001) := by decide

/-- spec/95_test_vectors.md A9, `OR s4, 0x18`. -/
theorem test_A9 :
    seenReg 0x4 (start 0x000 0x0C418 false false [(0x4, 0x81)]) = some (0x99, false, false, 0x001) := by decide

/-- spec/95_test_vectors.md A10, `OR s0, s1`. -/
theorem test_A10 :
    seenReg 0x0 (start 0x000 0x0D010 false true []) = some (0x00, true, false, 0x001) := by decide

/-- spec/95_test_vectors.md A11, `XOR s5, 0x55`. -/
theorem test_A11 :
    seenReg 0x5 (start 0x000 0x0E555 false false [(0x5, 0xAA)]) = some (0xFF, false, false, 0x001) := by decide

/-- spec/95_test_vectors.md A12, `XOR s5, s5`. -/
theorem test_A12 :
    seenReg 0x5 (start 0x000 0x0F550 false true [(0x5, 0xAA)]) = some (0x00, true, false, 0x001) := by decide

/-- spec/95_test_vectors.md A13, `ADD s0, 0x01`. -/
theorem test_A13 :
    seenReg 0x0 (start 0x000 0x18001 false false [(0x0, 0xFF)]) = some (0x00, true, true, 0x001) := by decide

/-- spec/95_test_vectors.md A15, `ADD s1, s2`. -/
theorem test_A15 :
    seenReg 0x1 (start 0x000 0x1912F false true [(0x1, 0x7F), (0x2, 0x01)]) = some (0x80, false, false, 0x001) := by decide

/-- spec/95_test_vectors.md A16, `ADD s6, s6`. -/
theorem test_A16 :
    seenReg 0x6 (start 0x000 0x19660 false false [(0x6, 0x80)]) = some (0x00, true, true, 0x001) := by decide

/-- spec/95_test_vectors.md A19, `ADDCY s0, 0xFF`. -/
theorem test_A19 :
    seenReg 0x0 (start 0x000 0x1A0FF false true [(0x0, 0xFF)]) = some (0xFF, false, true, 0x001) := by decide

/-- spec/95_test_vectors.md A21, `ADDCY s0, 0x00`. -/
theorem test_A21 :
    seenReg 0x0 (start 0x000 0x1A000 false true []) = some (0x01, false, false, 0x001) := by decide

/-- spec/95_test_vectors.md A22, `ADDCY s1, s1`. -/
theorem test_A22 :
    seenReg 0x1 (start 0x000 0x1B110 false true [(0x1, 0x81)]) = some (0x03, false, true, 0x001) := by decide

/-- spec/95_test_vectors.md A23, `SUB s0, 0x01`. -/
theorem test_A23 :
    seenReg 0x0 (start 0x000 0x1C001 false false []) = some (0xFF, false, true, 0x001) := by decide

/-- spec/95_test_vectors.md A26, `SUB s0, 0xFF`. -/
theorem test_A26 :
    seenReg 0x0 (start 0x000 0x1C0FF false false []) = some (0x01, false, true, 0x001) := by decide

/-- spec/95_test_vectors.md A25, `SUB s3, s3`. -/
theorem test_A25 :
    seenReg 0x3 (start 0x000 0x1D330 false true [(0x3, 0x55)]) = some (0x00, true, false, 0x001) := by decide

/-- spec/95_test_vectors.md A28, `SUBCY s0, 0xFF`. -/
theorem test_A28 :
    seenReg 0x0 (start 0x000 0x1E0FF false true []) = some (0x00, true, true, 0x001) := by decide

/-- spec/95_test_vectors.md A29, `SUBCY s1, 0x00`. -/
theorem test_A29 :
    seenReg 0x1 (start 0x000 0x1E100 false true [(0x1, 0x01)]) = some (0x00, true, false, 0x001) := by decide

/-- spec/95_test_vectors.md A31, `SUBCY s7, s7`. -/
theorem test_A31 :
    seenReg 0x7 (start 0x000 0x1F770 false true [(0x7, 0x33)]) = some (0xFF, false, true, 0x001) := by decide

/-- spec/95_test_vectors.md A33, `COMPARE s0, 0x11`. -/
theorem test_A33 :
    seenReg 0x0 (start 0x000 0x14011 false false [(0x0, 0x10)]) = some (0x10, false, true, 0x001) := by decide

/-- spec/95_test_vectors.md A34, `COMPARE s0, 0x10`. -/
theorem test_A34 :
    seenReg 0x0 (start 0x000 0x14010 false true [(0x0, 0x10)]) = some (0x10, true, false, 0x001) := by decide

/-- spec/95_test_vectors.md A36, `COMPARE s2, s1`. -/
theorem test_A36 :
    seenReg 0x2 (start 0x000 0x15210 false false [(0x1, 0x11), (0x2, 0x10)]) = some (0x10, false, true, 0x001) := by decide

/-- spec/95_test_vectors.md A37, `TEST s0, 0x80`. -/
theorem test_A37 :
    seenReg 0x0 (start 0x000 0x12080 false true [(0x0, 0x81)]) = some (0x81, false, false, 0x001) := by decide

/-- spec/95_test_vectors.md A38, `TEST s0, 0x7E`. -/
theorem test_A38 :
    seenReg 0x0 (start 0x000 0x1207E false true [(0x0, 0x81)]) = some (0x81, true, false, 0x001) := by decide

/-- spec/95_test_vectors.md A39, `TEST s3, s3`. -/
theorem test_A39 :
    seenReg 0x3 (start 0x000 0x13330 false true []) = some (0x00, true, false, 0x001) := by decide

/-- spec/95_test_vectors.md H2, `RL s1`. -/
theorem test_H2 :
    seenReg 0x1 (start 0x000 0x20102 false true [(0x1, 0x81)]) = some (0x03, false, true, 0x001) := by decide

/-- spec/95_test_vectors.md H7, `RR s1`. -/
theorem test_H7 :
    seenReg 0x1 (start 0x000 0x2010C false true [(0x1, 0x81)]) = some (0xC0, false, true, 0x001) := by decide

/-- spec/95_test_vectors.md H9, `RR s1`. -/
theorem test_H9 :
    seenReg 0x1 (start 0x000 0x2010C false false [(0x1, 0x01)]) = some (0x80, false, true, 0x001) := by decide

/-- spec/95_test_vectors.md H13, `SL0 s1`. -/
theorem test_H13 :
    seenReg 0x1 (start 0x000 0x20106 false false [(0x1, 0x80)]) = some (0x00, true, true, 0x001) := by decide

/-- spec/95_test_vectors.md H18, `SL1 s1`. -/
theorem test_H18 :
    seenReg 0x1 (start 0x000 0x20107 false false [(0x1, 0x80)]) = some (0x01, false, true, 0x001) := by decide

/-- spec/95_test_vectors.md H22, `SLA s1`. -/
theorem test_H22 :
    seenReg 0x1 (start 0x000 0x20100 false true [(0x1, 0x81)]) = some (0x03, false, true, 0x001) := by decide

/-- spec/95_test_vectors.md H23, `SLA s1`. -/
theorem test_H23 :
    seenReg 0x1 (start 0x000 0x20100 false false [(0x1, 0x80)]) = some (0x00, true, true, 0x001) := by decide

/-- spec/95_test_vectors.md H27, `SLX s1`. -/
theorem test_H27 :
    seenReg 0x1 (start 0x000 0x20104 false true [(0x1, 0x81)]) = some (0x03, false, true, 0x001) := by decide

/-- spec/95_test_vectors.md H28, `SLX s1`. -/
theorem test_H28 :
    seenReg 0x1 (start 0x000 0x20104 false false [(0x1, 0x80)]) = some (0x00, true, true, 0x001) := by decide

/-- spec/95_test_vectors.md H34, `SR0 s1`. -/
theorem test_H34 :
    seenReg 0x1 (start 0x000 0x2010E false false [(0x1, 0x01)]) = some (0x00, true, true, 0x001) := by decide

/-- spec/95_test_vectors.md H37, `SR1 s1`. -/
theorem test_H37 :
    seenReg 0x1 (start 0x000 0x2010F false true [(0x1, 0x81)]) = some (0xC0, false, true, 0x001) := by decide

/-- spec/95_test_vectors.md H42, `SRA s1`. -/
theorem test_H42 :
    seenReg 0x1 (start 0x000 0x20108 false true [(0x1, 0x81)]) = some (0xC0, false, true, 0x001) := by decide

/-- spec/95_test_vectors.md H44, `SRA s1`. -/
theorem test_H44 :
    seenReg 0x1 (start 0x000 0x20108 false false [(0x1, 0x01)]) = some (0x00, true, true, 0x001) := by decide

/-- spec/95_test_vectors.md H47, `SRX s1`. -/
theorem test_H47 :
    seenReg 0x1 (start 0x000 0x2010A false true [(0x1, 0x81)]) = some (0xC0, false, true, 0x001) := by decide

/-- spec/95_test_vectors.md H52, `illegal (selector 0x1)`. -/
theorem test_H52_faults :
    stopOf (start 0x000 0x20001 false true [(0x0, 0x81)]) = some (.illegalInstruction .selector 0x20001) := by decide

/-- spec/95_test_vectors.md H57, `illegal (selector 0xD)`. -/
theorem test_H57_faults :
    stopOf (start 0x000 0x2000D true false [(0x0, 0x81)]) = some (.illegalInstruction .selector 0x2000D) := by decide

/-- spec/95_test_vectors.md B2, `JUMP 0x20`. -/
theorem test_B2 :
    seenRing 0 (start 0x005 0x34F20 true true []) = some (0x020, 0, 0x000, true, true) := by decide

/-- spec/95_test_vectors.md B3, `JUMP 0x06`. -/
theorem test_B3 :
    seenRing 0 (start 0x006 0x34006 false false []) = some (0x006, 0, 0x000, false, false) := by decide

/-- spec/95_test_vectors.md B5, `JUMP Z, 0x30`. -/
theorem test_B5 :
    seenRing 0 (start 0x010 0x35030 true false []) = some (0x030, 0, 0x000, true, false) := by decide

/-- spec/95_test_vectors.md B6, `JUMP Z, 0x30`. -/
theorem test_B6 :
    seenRing 0 (start 0x010 0x35030 false false []) = some (0x011, 0, 0x000, false, false) := by decide

/-- spec/95_test_vectors.md B13, `JUMP NZ, 0x30`. -/
theorem test_B13 :
    seenRing 0 (start 0x3FF 0x35430 true false []) = some (0x000, 0, 0x000, true, false) := by decide

/-- spec/95_test_vectors.md B8, `JUMP NZ, 0x30`. -/
theorem test_B8 :
    seenRing 0 (start 0x010 0x35430 false false []) = some (0x030, 0, 0x000, false, false) := by decide

/-- spec/95_test_vectors.md B9, `JUMP C, 0x30`. -/
theorem test_B9 :
    seenRing 0 (start 0x010 0x35830 false true []) = some (0x030, 0, 0x000, false, true) := by decide

/-- spec/95_test_vectors.md B10, `JUMP C, 0x30`. -/
theorem test_B10 :
    seenRing 0 (start 0x010 0x35830 false false []) = some (0x011, 0, 0x000, false, false) := by decide

/-- spec/95_test_vectors.md B11, `JUMP NC, 0x30`. -/
theorem test_B11 :
    seenRing 0 (start 0x010 0x35C30 false true []) = some (0x011, 0, 0x000, false, true) := by decide

/-- spec/95_test_vectors.md B12, `JUMP NC, 0x30`. -/
theorem test_B12 :
    seenRing 0 (start 0x010 0x35C30 false false []) = some (0x030, 0, 0x000, false, false) := by decide

/-- spec/95_test_vectors.md B14, `illegal (condition field 0x1)`. -/
theorem test_B14_faults :
    stopOf (start 0x010 0x35130 true false []) = some (.illegalInstruction .condition 0x35130) := by decide

/-- spec/95_test_vectors.md B18, `CALL 0x40`. -/
theorem test_B18 :
    seenRing 1 (start 0x003 0x30A40 false false []) = some (0x040, 1, 0x003, false, false) := by decide

/-- spec/95_test_vectors.md B19, `CALL 0x40`. -/
theorem test_B19 :
    seenRing 0 { start 0x3FF 0x30040 false false [] with sp := 30, stack := ((State.reset.stack.set 0 0x055).set 30 0x123) } = some (0x040, 0, 0x3FF, false, false) := by decide

/-- spec/95_test_vectors.md B20, `CALL C, 0x50`. -/
theorem test_B20 :
    seenRing 3 { start 0x00A 0x31850 false true [] with sp := 2, stack := ((State.reset.stack.set 1 0x001).set 2 0x007) } = some (0x050, 3, 0x00A, false, true) := by decide

/-- spec/95_test_vectors.md B21, `CALL C, 0x50`. -/
theorem test_B21 :
    seenRing 3 { start 0x00A 0x31850 false false [] with sp := 2, stack := ((State.reset.stack.set 1 0x001).set 2 0x007) } = some (0x00B, 2, 0x000, false, false) := by decide

/-- spec/95_test_vectors.md B22, `CALL Z, 0x50`. -/
theorem test_B22 :
    seenRing 1 (start 0x00A 0x31050 true false []) = some (0x050, 1, 0x00A, true, false) := by decide

/-- spec/95_test_vectors.md B23, `CALL NZ, 0x50`. -/
theorem test_B23 :
    seenRing 1 (start 0x00A 0x31450 true false []) = some (0x00B, 0, 0x000, true, false) := by decide

/-- spec/95_test_vectors.md B24, `CALL NC, 0x50`. -/
theorem test_B24 :
    seenRing 1 (start 0x00A 0x31C50 false false []) = some (0x050, 1, 0x00A, false, false) := by decide

/-- spec/95_test_vectors.md B25, `illegal (condition field 0x2)`. -/
theorem test_B25_faults :
    stopOf (start 0x00A 0x31250 true true []) = some (.illegalInstruction .condition 0x31250) := by decide

/-- spec/95_test_vectors.md B27, `RETURN`. -/
theorem test_B27 :
    seenRing 1 { start 0x041 0x2AFFF false false [] with sp := 1, stack := (State.reset.stack.set 1 0x003) } = some (0x004, 0, 0x003, false, false) := by decide

/-- spec/95_test_vectors.md B30, `RETURN`. -/
theorem test_B30 :
    seenRing 0 { start 0x041 0x2A000 false false [] with sp := 0, stack := ((State.reset.stack.set 0 0x100).set 30 0x200) } = some (0x101, 30, 0x100, false, false) := by decide

/-- spec/95_test_vectors.md B31, `RETURN NZ`. -/
theorem test_B31 :
    seenRing 1 { start 0x041 0x2B400 false false [] with sp := 1, stack := (State.reset.stack.set 1 0x003) } = some (0x004, 0, 0x003, false, false) := by decide

/-- spec/95_test_vectors.md B32, `RETURN Z`. -/
theorem test_B32 :
    seenRing 1 { start 0x041 0x2B000 false false [] with sp := 1, stack := (State.reset.stack.set 1 0x003) } = some (0x042, 1, 0x003, false, false) := by decide

/-- spec/95_test_vectors.md B33, `RETURN C`. -/
theorem test_B33 :
    seenRing 1 { start 0x041 0x2B800 false true [] with sp := 1, stack := (State.reset.stack.set 1 0x003) } = some (0x004, 0, 0x003, false, true) := by decide

/-- spec/95_test_vectors.md B34, `RETURN NC`. -/
theorem test_B34 :
    seenRing 1 { start 0x041 0x2BC00 false true [] with sp := 1, stack := (State.reset.stack.set 1 0x003) } = some (0x042, 1, 0x003, false, true) := by decide

/-- spec/95_test_vectors.md B36, `illegal (condition field 0x1)`. -/
theorem test_B36_faults :
    stopOf { start 0x041 0x2B100 true false [] with sp := 1, stack := (State.reset.stack.set 1 0x003) } = some (.illegalInstruction .condition 0x2B100) := by decide

/-- spec/95_test_vectors.md M1, `STORE s2, 0x10`. -/
theorem test_M1 :
    seenCell 0x10 (start 0x000 0x2E210 true true [(0x2, 0xA7)]) = some (0xA7, true, true, 0x001) := by decide

/-- spec/95_test_vectors.md M3, `FETCH s3, 0x3F`. -/
theorem test_M3 :
    seenReg 0x3 { start 0x000 0x0633F false false [(0x3, 0xEE)] with scratch := [(0x3F, 0x01)] } = some (0x01, false, false, 0x001) := by decide

/-- spec/95_test_vectors.md M5, `FETCH s3, 0x40`. -/
theorem test_M5_faults :
    stopOf (start 0x000 0x06340 false false [(0x3, 0xEE)]) = some (.scratchpadAddressOutOfRange 0x40) := by decide

/-- spec/95_test_vectors.md M8, `FETCH s4, (s2)`. -/
theorem test_M8 :
    seenReg 0x4 { start 0x000 0x0742F false false [(0x2, 0x10)] with scratch := [(0x10, 0x5A)] } = some (0x5A, false, false, 0x001) := by decide

/-- spec/95_test_vectors.md M9, `FETCH s4, (s2)`. -/
theorem test_M9_faults :
    stopOf { start 0x000 0x07420 false false [(0x2, 0x80)] with scratch := [(0x00, 0x11)] } = some (.scratchpadAddressOutOfRange 0x80) := by decide

/-- spec/95_test_vectors.md M10, `FETCH s2, (s2)`. -/
theorem test_M10 :
    seenReg 0x2 { start 0x000 0x07220 false false [(0x2, 0x10)] with scratch := [(0x10, 0x5A)] } = some (0x5A, false, false, 0x001) := by decide

/-- spec/95_test_vectors.md M11, `STORE s1, 0x3F`. -/
theorem test_M11 :
    seenCell 0x3F (start 0x000 0x2E13F false false [(0x1, 0x99)]) = some (0x99, false, false, 0x001) := by decide

/-- spec/95_test_vectors.md M12, `STORE s1, 0x40`. -/
theorem test_M12_faults :
    stopOf (start 0x000 0x2E140 false false [(0x1, 0x99)]) = some (.scratchpadAddressOutOfRange 0x40) := by decide

/-- spec/95_test_vectors.md M14, `STORE s0, (s1)`. -/
theorem test_M14_faults :
    stopOf (start 0x000 0x2F010 false false [(0x0, 0x77), (0x1, 0x40)]) = some (.scratchpadAddressOutOfRange 0x40) := by decide

/-- spec/95_test_vectors.md M15, `STORE s5, (s5)`. -/
theorem test_M15 :
    seenCell 0x07 (start 0x000 0x2F550 false false [(0x5, 0x07)]) = some (0x07, false, false, 0x001) := by decide

/-- spec/95_test_vectors.md M16, `INPUT s5, 0x01`. -/
theorem test_M16 :
    seenPort 0x5 { start 0x000 0x04501 true true [(0x5, 0xEE)] with portIn := [0x3C] } = some (0x3C, [.read 0x01 0x3C], true, true) := by decide

/-- spec/95_test_vectors.md M18, `INPUT s0, (s1)`. -/
theorem test_M18 :
    seenPort 0x0 { start 0x000 0x05010 false false [(0x1, 0xFE)] with portIn := [0x00] } = some (0x00, [.read 0xFE 0x00], false, false) := by decide

/-- spec/95_test_vectors.md M19, `INPUT s1, (s1)`. -/
theorem test_M19 :
    seenPort 0x1 { start 0x000 0x05110 false false [(0x1, 0x42)] with portIn := [0x99] } = some (0x99, [.read 0x42 0x99], false, false) := by decide

/-- spec/95_test_vectors.md M20, `OUTPUT s7, 0x80`. -/
theorem test_M20 :
    seenPort 0x7 (start 0x000 0x2C780 true false [(0x7, 0x41)]) = some (0x41, [.write 0x80 0x41], true, false) := by decide

/-- spec/95_test_vectors.md M22, `OUTPUT s0, (s1)`. -/
theorem test_M22 :
    seenPort 0x0 (start 0x000 0x2D010 false false [(0x0, 0x41), (0x1, 0x02)]) = some (0x41, [.write 0x02 0x41], false, false) := by decide

/-- spec/95_test_vectors.md M23, `OUTPUT s3, (s3)`. -/
theorem test_M23 :
    seenPort 0x3 (start 0x000 0x2D330 false true [(0x3, 0xFF)]) = some (0xFF, [.write 0xFF 0xFF], false, true) := by decide

/-- spec/95_test_vectors.md I2, `illegal (group 0x3F)`. -/
theorem test_I2_faults :
    stopOf (start 0x155 0x3FFFF true true [(0xF, 0xFF)]) = some (.illegalInstruction .group 0x3FFFF) := by decide

/-! ## Witnesses: for each statement with hypotheses, a state and operands that meet them -/

/-- A state with something in every part the reset clears. -/
def dirty : State :=
  { start 0x155 0x3FFFF true true [(0, 0x12), (15, 0xFF)] with
    sp := 30, stack := State.reset.stack.set 30 0x123, scratch := [(63, 0x01)], portIn := [0x3C] }

theorem test_witness_ResetClearsEverything :
    dirty.hostReset.readCell 63 = 0 ∧ dirty.readCell 63 ≠ 0 ∧ dirty.hostReset.stack[30] = 0 ∧ dirty.stack[30] ≠ 0 ∧
      dirty.hostReset.readReg 15 = 0 ∧ dirty.hostReset.wordAt 0x155 = 0x3FFFF := by decide

theorem test_witness_EncodeDecodeIsCanonicalWord :
    decode 0x1912F = .ok (.addReg 1 2) ∧ canonicalize 0x1912F = 0x19120 ∧ (0x1912F : Word) ≠ 0x19120 :=
  ⟨rfl, by decide, by decide⟩

theorem test_witness_DecodeIgnoresUnexaminedBits :
    canonicalize 0x2AFFF = canonicalize 0x2A000 ∧ (0x2AFFF : Word) ≠ 0x2A000 := by decide

theorem test_witness_WordIsTheInstructionOfItsTableRow :
    (⟨"OUTPUT_sX___sY", 0x2D000, 0x3F000⟩ : TableRow) ∈ opcodeTable ∧
      rowMatches ⟨"OUTPUT_sX___sY", 0x2D000, 0x3F000⟩ 0x2D33F = true ∧
      rowMatches ⟨"OUTPUT_sX___sY", 0x2D000, 0x3F000⟩ 0x2C330 = false := by decide

theorem test_witness_StepRunsTheDecodedInstruction :
    decode ((start 0x3FF 0x34020 true false []).wordAt 0x3FF) = .ok (.jump 0x20) := rfl

theorem test_witness_IllegalWordFaultsAtDispatch :
    illegality (start 0 0x02000 false false []).fetch = some .group ∧
      illegality (start 0 0x2000D false false []).fetch = some .selector ∧
      illegality (start 0 0x2BD00 false false []).fetch = some .condition ∧
      (0x3F000 : Word).toNat / 0x1000 = 0x3F ∧ (0x3FFFF : Word).toNat / 0x1000 = 0x3F := by decide

/-- Source and destination may coincide where the premises of the statement leave it open. -/
theorem test_witness_CarryChainsSixteenBitArithmetic :
    ((1 : Reg) ≠ 0 ∧ (3 : Reg) ≠ 0) ∧ ((1 : Reg) ≠ 0 ∧ (1 : Reg) ≠ 0) := by decide

theorem test_witness_ConditionalJumpFollowsItsFlag :
    (start 0 0x35130 true false []).fetch = BitVec.ofNat 18 (0x35000 + (0x1 : BitVec 4).toNat * 0x100 + (0x30 : Byte).toNat) ∧
      (0x1 : BitVec 4) ∉ [0x0, 0x4, 0x8, 0xC] ∧
      (start 0 0x35FFF true false []).fetch = BitVec.ofNat 18 (0x35000 + (0xF : BitVec 4).toNat * 0x100 + (0xFF : Byte).toNat) ∧
      (0xF : BitVec 4) ∉ [0x0, 0x4, 0x8, 0xC] := by decide

theorem test_witness_ConditionalCallPushesWhenTaken :
    (start 0 0x31150 true true []).fetch = BitVec.ofNat 18 (0x31000 + (0x1 : BitVec 4).toNat * 0x100 + (0x50 : Byte).toNat) ∧
      (0x1 : BitVec 4) ∉ [0x0, 0x4, 0x8, 0xC] ∧
      (start 0 0x31FFF true true []).fetch = BitVec.ofNat 18 (0x31000 + (0xF : BitVec 4).toNat * 0x100 + (0xFF : Byte).toNat) ∧
      (0xF : BitVec 4) ∉ [0x0, 0x4, 0x8, 0xC] := by decide

theorem test_witness_ConditionalReturnPopsWhenTaken :
    (start 0 0x2B100 true true []).fetch = BitVec.ofNat 18 (0x2B000 + (0x1 : BitVec 4).toNat * 0x100 + (0x00 : Byte).toNat) ∧
      (0x1 : BitVec 4) ∉ [0x0, 0x4, 0x8, 0xC] ∧
      (start 0 0x2BDAB true true []).fetch = BitVec.ofNat 18 (0x2B000 + (0xD : BitVec 4).toNat * 0x100 + (0xAB : Byte).toNat) ∧
      (0xD : BitVec 4) ∉ [0x0, 0x4, 0x8, 0xC] := by decide

theorem test_witness_RotatesMoveOneBitAround : 0 < 8 ∧ 7 < 8 := by decide

/-- A CALL at 003 whose target 040 holds a RETURN (spec/95_test_vectors.md S5). -/
def callReturn : State := (start 0x003 0x30040 false false []).placeWord 0x040 0x2A000

theorem test_witness_CallThenReturnResumesAfterCall :
    decode callReturn.fetch = .ok (.call 0x40) ∧
      decode (callReturn.wordAt (BitVec.ofNat 10 (0x40 : Byte).toNat)) = .ok .ret := ⟨rfl, rfl⟩

theorem test_witness_NestedCallsReturnInReverseOrder :
    (List.replicate 31 (0x3FF : Addr)).length ≤ 31 ∧ (List.replicate 31 (0x3FF : Addr)).length = 31 ∧
      ([] : List Addr).length ≤ 31 := by decide

/-- Both clauses of both forms, at 63 and at 64. -/
theorem test_witness_FetchReadsOneCellOrFaults :
    (0x3F : Byte).toNat ≤ 63 ∧ 63 < (0x40 : Byte).toNat ∧
      ((start 0 0 false false [(2, 0x3F)]).readReg 2).toNat ≤ 63 ∧
      63 < ((start 0 0 false false [(2, 0x40)]).readReg 2).toNat := by decide

theorem test_witness_StoreWritesOneCellOrFaults :
    (0x3F : Byte).toNat ≤ 63 ∧ 63 < (0x40 : Byte).toNat ∧
      ((start 0 0 false false [(1, 0x3F)]).readReg 1).toNat ≤ 63 ∧
      63 < ((start 0 0 false false [(1, 0x40)]).readReg 1).toNat := by decide

theorem test_witness_InputTakesOnePortAnswer : dirty.portIn = 0x3C :: [] := rfl

/-- A register that is no destination, and an instruction without one. -/
theorem test_witness_OnlyTheDestinationRegisterChanges :
    (∃ t, exec (.addReg 1 2) dirty = .next t ∧ destination (.addReg 1 2) ≠ some 2 ∧ destination (.addReg 1 2) ≠ some 15) ∧
      ∃ t, exec (.compareImm 1 0x11) dirty = .next t ∧ destination (.compareImm 1 0x11) ≠ some 1 :=
  ⟨⟨_, rfl, by decide⟩, ⟨_, rfl, by decide⟩⟩

theorem test_witness_OnlyAluClassInstructionsChangeFlags :
    (∃ t, exec (.fetchImm 3 0x3F) dirty = .next t ∧ writesFlags (.fetchImm 3 0x3F) = false) ∧
      (∃ t, exec (.sl0 0) dirty = .next t ∧ writesFlags (.sl0 0) = true ∧ destination (.sl0 0) = some 0) ∧
      ∃ t, exec (.jumpZ 0x30) dirty = .next t ∧ writesFlags (.jumpZ 0x30) = false :=
  ⟨⟨_, rfl, rfl⟩, ⟨_, rfl, rfl, rfl⟩, ⟨_, rfl, rfl⟩⟩

theorem test_witness_FlagsAreReadOnlyByTheirReaders :
    readsZ (.jumpC 0x30) = false ∧ readsC (.jumpC 0x30) = true ∧ readsC (.retZ) = false ∧ readsZ .retZ = true ∧
      readsZ (.addImm 0 1) = false ∧ readsC (.addImm 0 1) = false ∧ readsZ (.sra 0) = false ∧ readsC (.sra 0) = true := by
  decide

theorem test_witness_OnlyTheStoredCellChanges :
    (∃ t, exec (.storeImm 0 0x00) dirty = .next t ∧ storedCell (.storeImm 0 0x00) dirty ≠ some 63) ∧
      ∃ t, exec (.outputInd 0 1) dirty = .next t ∧ storedCell (.outputInd 0 1) dirty ≠ some 0 :=
  ⟨⟨_, rfl, by decide⟩, ⟨_, rfl, by decide⟩⟩

/-- A taken call from sp = 30, a taken return, and a call that is not taken. -/
theorem test_witness_OnlyTakenCallsAndReturnsMoveTheRing :
    (∃ t, exec (.callZ 0x40) dirty = .next t ∧ takenTransfer (.callZ 0x40) dirty = some .call ∧ t.sp = 0) ∧
      (∃ t, exec .ret dirty = .next t ∧ takenTransfer .ret dirty = some .ret ∧ t.sp = 29) ∧
      ∃ t, exec (.callNZ 0x40) dirty = .next t ∧ takenTransfer (.callNZ 0x40) dirty = none :=
  ⟨⟨_, rfl, rfl, rfl⟩, ⟨_, rfl, rfl, rfl⟩, ⟨_, rfl, rfl⟩⟩

theorem test_witness_PortEventsAreExactlyThoseOfPortInstructions :
    (∃ t, exec (.inputImm 5 0x01) dirty = .next t ∧ portEventOf (.inputImm 5 0x01) dirty = some (.read 0x01 0x3C)) ∧
      (∃ t, exec (.outputImm 15 0x80) dirty = .next t ∧ portEventOf (.outputImm 15 0x80) dirty = some (.write 0x80 0xFF)) ∧
      ∃ t, exec (.rl 1) dirty = .next t ∧ portEventOf (.rl 1) dirty = none :=
  ⟨⟨_, rfl, rfl⟩, ⟨_, rfl, rfl⟩, ⟨_, rfl, rfl⟩⟩

/-- pc at 1023, a plain instruction and a jump that is not taken, and a step that faults. -/
theorem test_witness_PcAdvancesUnlessATransferIsTaken :
    (∃ t, exec (.loadImm 3 0) (dirty.setPc 0x3FF) = .next t ∧ takenTransfer (.loadImm 3 0) (dirty.setPc 0x3FF) = none ∧
        t.pc = 0) ∧
      (∃ t, exec (.jumpNC 0x30) dirty = .next t ∧ takenTransfer (.jumpNC 0x30) dirty = none) ∧
      step dirty = .fault (.illegalInstruction .group 0x3FFFF) :=
  ⟨⟨_, rfl, rfl, by decide⟩, ⟨_, rfl, rfl⟩, rfl⟩

theorem test_witness_EveryInstructionCompletesButBadScratchAddresses :
    (scratchAddress (.fetchImm 3 0x3F) dirty = some 0x3F ∧ (0x3F : Byte).toNat ≤ 63) ∧
      (scratchAddress (.storeInd 3 15) dirty = some 0xFF ∧ 63 < (0xFF : Byte).toNat) ∧
      (scratchAddress (.fetchImm 3 0x40) dirty = some 0x40 ∧ 63 < (0x40 : Byte).toNat) ∧
      scratchAddress (.retNC) dirty = none := by decide

/-- Each of the four faults of the step cycle, and a step that passes all checks, at 63 and 64. -/
theorem test_witness_StepFaultsExactlyAsTheStepCycleChecks :
    faultOfChecks dirty = some (.illegalInstruction .group 0x3FFFF) ∧
      faultOfChecks (start 0 0x20001 false false []) = some (.illegalInstruction .selector 0x20001) ∧
      faultOfChecks (start 0 0x31200 false false []) = some (.illegalInstruction .condition 0x31200) ∧
      faultOfChecks (start 0 0x2E140 false false []) = some (.scratchpadAddressOutOfRange 0x40) ∧
      faultOfChecks (start 0 0x07420 false false [(2, 0x40)]) = some (.scratchpadAddressOutOfRange 0x40) ∧
      faultOfChecks (start 0 0x07420 false false [(2, 0x3F)]) = none ∧
      faultOfChecks (start 0 0x2E13F false false []) = none := by decide

theorem test_witness_FaultLeavesTheStateAndRepeats :
    step dirty = .fault (.illegalInstruction .group 0x3FFFF) ∧
      step (start 0 0x06340 false false []) = .fault (.scratchpadAddressOutOfRange 0x40) := ⟨rfl, rfl⟩

theorem test_witness_StepKeepsTheInvariant :
    (start 0 0x2E13F false false [(1, 0x99)]).Inv ∧
      ∃ t, step (start 0 0x2E13F false false [(1, 0x99)]) = .next t ∧ t.scratch = [(63, 0x99)] :=
  ⟨by decide, _, rfl, rfl⟩

theorem test_witness_SessionsKeepTheInvariant : dirty.Inv := by decide

theorem test_witness_SelfJumpRunsForEverUnchanged : AtSelfJump (start 0x006 0x34006 false false []) :=
  ⟨0x06, rfl, rfl⟩

/-- An image with a word at the first and at the last program address. -/
theorem test_witness_HostLoadReplacesOnlyTheProgram :
    ProgramMemory.wf [(0, 0x00005), (1023, 0x34006)] ∧
      ((1023, 0x34006) : Nat × Word) ∈ ([(0, 0x00005), (1023, 0x34006)] : ProgramMemory) := by decide

/-- A comment, a token, an empty line and a last token with its line feed; and the empty text. -/
theorem test_witness_ProgramTextPlacesTokensInOrder :
    wordsOfText [';', 'x', '\n', '5', '\n', '\n', '3', '4', '0', '0', '1', '\n'] = some [0x00005, 0x34001] ∧
      1 < ([0x00005, 0x34001] : List Word).length ∧ wordsOfText [] = some [] := by decide

end Sys2Proof.Tests
end

/-! # Proofs about what the instructions write and leave unchanged

The 53 instructions have only seven shapes. `shapeOf` names the shape of each, `exec_eq_run` and the table lemmas tie it
to the meanings and to the spec's tables, and `exec_next` says once what an instruction that answers can have done. Every
frame statement below is then a case split over `Shape.Next`. -/

namespace Sys2Proof.Machine

/-! ## The shapes of the instructions -/

/-- Where a taken transfer goes (spec/42_control_flow.md rules R152, R154, R156). -/
inductive Branch where
  | jump (d : Byte)
  | call (d : Byte)
  | ret

/-- The kind of transfer a branch makes. -/
def Branch.kind : Branch → Transfer
  | .jump _ => .jump
  | .call _ => .call
  | .ret => .ret

/-- The state after a taken transfer. -/
def Branch.target (b : Branch) (s : State) : State :=
  match b with
  | .jump d => s.setPc (targetAddr d)
  | .call d => (s.push s.pc).setPc (targetAddr d)
  | .ret => s.pop.setPc (s.top + 1)

/-- Whether a transfer with this guard is taken; one without a condition always is (spec/42_control_flow.md rule R151). -/
def guardHolds (guard : Option Cond) (s : State) : Bool :=
  match guard with
  | none => true
  | some cc => condHolds cc s

/-- What an instruction does, with its operands: a rotate or shift is an ALU write whose second operand is unused. -/
inductive Shape where
  | write (op : AluOp) (x : Reg) (src : Src)
  | discard (op : AluOp) (x : Reg) (src : Src)
  | transfer (guard : Option Cond) (b : Branch)
  | fetch (x : Reg) (src : Src)
  | store (x : Reg) (src : Src)
  | input (x : Reg) (src : Src)
  | output (x : Reg) (src : Src)

/-- The shape of each of the 53 instructions. -/
def shapeOf : Instr → Shape
  | .loadImm x k => .write .load x (.imm k)
  | .loadReg x y => .write .load x (.reg y)
  | .andImm x k => .write .and x (.imm k)
  | .andReg x y => .write .and x (.reg y)
  | .orImm x k => .write .or x (.imm k)
  | .orReg x y => .write .or x (.reg y)
  | .xorImm x k => .write .xor x (.imm k)
  | .xorReg x y => .write .xor x (.reg y)
  | .addImm x k => .write .add x (.imm k)
  | .addReg x y => .write .add x (.reg y)
  | .addcyImm x k => .write .addcy x (.imm k)
  | .addcyReg x y => .write .addcy x (.reg y)
  | .subImm x k => .write .sub x (.imm k)
  | .subReg x y => .write .sub x (.reg y)
  | .subcyImm x k => .write .subcy x (.imm k)
  | .subcyReg x y => .write .subcy x (.reg y)
  | .compareImm x k => .discard .compare x (.imm k)
  | .compareReg x y => .discard .compare x (.reg y)
  | .testImm x k => .discard .test x (.imm k)
  | .testReg x y => .discard .test x (.reg y)
  | .rl x => .write .rl x (.imm 0)
  | .rr x => .write .rr x (.imm 0)
  | .sl0 x => .write .sl0 x (.imm 0)
  | .sl1 x => .write .sl1 x (.imm 0)
  | .sla x => .write .sla x (.imm 0)
  | .slx x => .write .slx x (.imm 0)
  | .sr0 x => .write .sr0 x (.imm 0)
  | .sr1 x => .write .sr1 x (.imm 0)
  | .sra x => .write .sra x (.imm 0)
  | .srx x => .write .srx x (.imm 0)
  | .jump t => .transfer none (.jump t)
  | .jumpZ t => .transfer (some .z) (.jump t)
  | .jumpNZ t => .transfer (some .nz) (.jump t)
  | .jumpC t => .transfer (some .c) (.jump t)
  | .jumpNC t => .transfer (some .nc) (.jump t)
  | .call t => .transfer none (.call t)
  | .callZ t => .transfer (some .z) (.call t)
  | .callNZ t => .transfer (some .nz) (.call t)
  | .callC t => .transfer (some .c) (.call t)
  | .callNC t => .transfer (some .nc) (.call t)
  | .ret => .transfer none .ret
  | .retZ => .transfer (some .z) .ret
  | .retNZ => .transfer (some .nz) .ret
  | .retC => .transfer (some .c) .ret
  | .retNC => .transfer (some .nc) .ret
  | .fetchImm x a => .fetch x (.imm a)
  | .fetchInd x y => .fetch x (.reg y)
  | .storeImm x a => .store x (.imm a)
  | .storeInd x y => .store x (.reg y)
  | .inputImm x p => .input x (.imm p)
  | .inputInd x y => .input x (.reg y)
  | .outputImm x p => .output x (.imm p)
  | .outputInd x y => .output x (.reg y)

/-- The meaning of a shape: the model's shared operation. -/
def Shape.run (sh : Shape) (s : State) : Result :=
  match sh with
  | .write op x src => aluWrite op x src s
  | .discard op x src => aluDiscard op x src s
  | .transfer guard b => if guardHolds guard s then .next (b.target s) else .next s.advance
  | .fetch x src => fetchCell x src s
  | .store x src => storeCell x src s
  | .input x src => inputPort x src s
  | .output x src => outputPort x src s

/-- Every instruction means what its shape means. -/
theorem exec_eq_run (i : Instr) (s : State) : exec i s = (shapeOf i).run s := by
  cases i <;> rfl

/-! ## The spec's tables, read off the shape -/

/-- The register a shape writes. -/
def Shape.destination : Shape → Option Reg
  | .write _ x _ | .fetch x _ | .input x _ => some x
  | .discard _ _ _ | .transfer _ _ | .store _ _ | .output _ _ => none

/-- Whether a shape writes the flags. -/
def Shape.writesFlags : Shape → Bool
  | .write _ _ _ | .discard _ _ _ => true
  | .transfer _ _ | .fetch _ _ | .store _ _ | .input _ _ | .output _ _ => false

/-- Whether an ALU operation uses Carry in (spec/40_alu.md rule R100). -/
def AluOp.readsCarry (op : AluOp) : Bool := op ∈ [.addcy, .subcy, .sla, .sra]

/-- Whether a shape reads Z. -/
def Shape.readsZ : Shape → Bool
  | .transfer guard _ => guard == some .z || guard == some .nz
  | .write _ _ _ | .discard _ _ _ | .fetch _ _ | .store _ _ | .input _ _ | .output _ _ => false

/-- Whether a shape reads C. -/
def Shape.readsC : Shape → Bool
  | .write op _ _ | .discard op _ _ => op.readsCarry
  | .transfer guard _ => guard == some .c || guard == some .nc
  | .fetch _ _ | .store _ _ | .input _ _ | .output _ _ => false

/-- The transfer a shape makes from a state. -/
def Shape.taken (sh : Shape) (s : State) : Option Transfer :=
  match sh with
  | .transfer guard b => if guardHolds guard s then some b.kind else none
  | .write _ _ _ | .discard _ _ _ | .fetch _ _ | .store _ _ | .input _ _ | .output _ _ => none

theorem destination_eq (i : Instr) : destination i = (shapeOf i).destination := by cases i <;> rfl

theorem writesFlags_eq (i : Instr) : writesFlags i = (shapeOf i).writesFlags := by cases i <;> rfl

theorem readsZ_eq (i : Instr) : readsZ i = (shapeOf i).readsZ := by cases i <;> rfl

theorem readsC_eq (i : Instr) : readsC i = (shapeOf i).readsC := by cases i <;> rfl

theorem takenTransfer_eq (i : Instr) (s : State) : takenTransfer i s = (shapeOf i).taken s := by cases i <;> rfl

/-! ## What an instruction that answers can have done -/

/-- `sh.Next s t`: the shape can lead from `s` to `t`, the checks it passed on the way included. -/
inductive Shape.Next (s : State) : Shape → State → Prop
  | write (op : AluOp) (x : Reg) (src : Src) :
    Next s (.write op x src) ((s.writeReg x (alu op (s.readReg x) (src.value s) s.c).result).setFlags
      (alu op (s.readReg x) (src.value s) s.c).zero (alu op (s.readReg x) (src.value s) s.c).carry).advance
  | discard (op : AluOp) (x : Reg) (src : Src) :
    Next s (.discard op x src) (s.setFlags (alu op (s.readReg x) (src.value s) s.c).zero
      (alu op (s.readReg x) (src.value s) s.c).carry).advance
  | taken (guard : Option Cond) (b : Branch) (holds : guardHolds guard s = true) :
    Next s (.transfer guard b) (b.target s)
  | skipped (guard : Option Cond) (b : Branch) (fails : guardHolds guard s = false) :
    Next s (.transfer guard b) s.advance
  | fetch (x : Reg) (src : Src) (inRange : (src.value s).toNat < 64) :
    Next s (.fetch x src) (s.writeReg x (s.readCell (src.value s).toNat)).advance
  | store (x : Reg) (src : Src) (inRange : (src.value s).toNat < 64) :
    Next s (.store x src) (s.writeCell (src.value s).toNat (s.readReg x)).advance
  | input (x : Reg) (src : Src) :
    Next s (.input x src) ((s.portRead (src.value s)).writeReg x (s.portAnswer (src.value s))).advance
  | output (x : Reg) (src : Src) :
    Next s (.output x src) (s.portWrite (src.value s) (s.readReg x)).advance

theorem Shape.run_next {sh : Shape} {s t : State} (h : sh.run s = .next t) : sh.Next s t := by
  cases sh with
  | write op x src => rw [aluWrite_next h]; exact .write op x src
  | discard op x src => rw [aluDiscard_next h]; exact .discard op x src
  | transfer guard b =>
    cases hg : guardHolds guard s <;> simp only [Shape.run, hg] at h <;> cases h
    · exact .skipped guard b hg
    · exact .taken guard b hg
  | fetch x src => obtain ⟨inRange, rfl⟩ := fetchCell_next h; exact .fetch x src inRange
  | store x src => obtain ⟨inRange, rfl⟩ := storeCell_next h; exact .store x src inRange
  | input x src => rw [inputPort_next h]; exact .input x src
  | output x src => rw [outputPort_next h]; exact .output x src

theorem exec_next {i : Instr} {s t : State} (h : exec i s = .next t) : (shapeOf i).Next s t :=
  Shape.run_next (exec_eq_run i s ▸ h)

/-! ## What a taken transfer leaves unchanged -/

@[simp] theorem Branch.target_regs (b : Branch) (s : State) : (b.target s).regs = s.regs := by cases b <;> rfl
@[simp] theorem Branch.target_z (b : Branch) (s : State) : (b.target s).z = s.z := by cases b <;> rfl
@[simp] theorem Branch.target_c (b : Branch) (s : State) : (b.target s).c = s.c := by cases b <;> rfl
@[simp] theorem Branch.target_scratch (b : Branch) (s : State) : (b.target s).scratch = s.scratch := by cases b <;> rfl
@[simp] theorem Branch.target_prog (b : Branch) (s : State) : (b.target s).prog = s.prog := by cases b <;> rfl
@[simp] theorem Branch.target_loads (b : Branch) (s : State) : (b.target s).loads = s.loads := by cases b <;> rfl

/-! ## Memories over a step and over a run -/

/-- No instruction writes program memory (spec/10_state.md rule R30). -/
theorem Shape.Next.sameProgram {sh : Shape} {s t : State} (h : sh.Next s t) : t.prog = s.prog ∧ t.loads = s.loads := by
  cases h <;> simp

/-- The scratchpad is as before, or one cell of it below 64 was written. -/
theorem Shape.Next.scratch {sh : Shape} {s t : State} (h : sh.Next s t) :
    t.scratch = s.scratch ∨ ∃ a v, a < 64 ∧ t.scratch = s.scratch.write a v := by
  cases h with
  | store x src inRange => exact .inr ⟨_, _, inRange, rfl⟩
  | taken guard b holds => exact .inl (b.target_scratch s)
  | _ => exact .inl rfl

theorem Shape.Next.inv {sh : Shape} {s t : State} (h : sh.Next s t) (hs : s.Inv) : t.Inv := by
  obtain ⟨hscratch, hprog⟩ := hs
  refine ⟨?_, h.sameProgram.1 ▸ hprog⟩
  rcases h.scratch with same | ⟨a, v, ha, written⟩
  · rwa [same]
  · rw [written]; exact Memory.wf_write hscratch ha v

/-- Settles O52: only a STORE writes the scratchpad, below address 64, and nothing writes program memory. -/
theorem stepKeepsTheInvariant : Obligations.StepKeepsTheInvariant := by
  intro s t hs hstep
  obtain ⟨i, -, hexec⟩ := step_next hstep
  exact (exec_next hexec).inv hs

/-- Settles O51: both memories are empty lists after reset. -/
theorem resetStateIsCanonical : Obligations.ResetStateIsCanonical := by
  refine ⟨⟨?_, ?_⟩, ?_, ?_⟩ <;> simp

/-- A call of the step answers the next state and no stop, or stops with the state as it was. -/
theorem stepCall_cases (s : State) :
    (∃ t, step s = .next t ∧ stepCall s = (t, none)) ∨ ∃ why, stepCall s = (s, some why) := by
  cases h : step s with
  | next t => exact .inl ⟨t, rfl, stepCall_of_next h⟩
  | fault f => exact .inr ⟨_, stepCall_of_fault h⟩
  | refused r => exact .inr ⟨.refused r, by simp only [stepCall, h]⟩

/-- What every step keeps, every run keeps. -/
theorem runLoop_keeps {P : State → Prop} (hstep : ∀ s t, P s → step s = .next t → P t) (n : Nat) (s : State)
    (hs : P s) : P (runLoop n s).1 := by
  induction n generalizing s with
  | zero => exact hs
  | succ n ih =>
    rcases stepCall_cases s with ⟨t, hnext, hcall⟩ | ⟨why, hcall⟩ <;> simp only [runLoop, hcall]
    · exact ih t (hstep s t hs hnext)
    · exact hs

theorem step_sameProgram {s t : State} (h : step s = .next t) : t.prog = s.prog ∧ t.loads = s.loads := by
  obtain ⟨i, -, hexec⟩ := step_next h
  exact (exec_next hexec).sameProgram

theorem runLoop_sameProgram (n : Nat) (s : State) :
    (runLoop n s).1.prog = s.prog ∧ (runLoop n s).1.loads = s.loads := by
  refine runLoop_keeps (P := fun u => u.prog = s.prog ∧ u.loads = s.loads) ?_ n s ⟨rfl, rfl⟩
  rintro u v ⟨hprog, hloads⟩ hstep
  obtain ⟨hprog', hloads'⟩ := step_sameProgram hstep
  exact ⟨hprog'.trans hprog, hloads'.trans hloads⟩

/-- A program word depends on the loaded image and the number of loads alone (log 3). -/
theorem State.wordAt_congr {s t : State} (hprog : t.prog = s.prog) (hloads : t.loads = s.loads) (a : Addr) :
    t.wordAt a = s.wordAt a := by
  rw [State.wordAt, State.wordAt, hprog, hloads]

/-- Settles O46, by induction on the number of steps. -/
theorem programMemoryIsNeverWritten : Obligations.ProgramMemoryIsNeverWritten := by
  intro n s a
  obtain ⟨hprog, hloads⟩ := runLoop_sameProgram n s
  exact State.wordAt_congr hprog hloads a

/-! ## Registers and flags -/

/-- A register reads the same in two states with the same register file. -/
theorem State.readReg_congr {s t : State} (h : t.regs = s.regs) (r : Reg) : t.readReg r = s.readReg r := by
  rw [State.readReg, State.readReg, h]

@[simp] theorem State.readReg_advance (s : State) (r : Reg) : s.advance.readReg r = s.readReg r := rfl

@[simp] theorem State.readReg_setFlags (s : State) (zero carry : Bool) (r : Reg) :
    (s.setFlags zero carry).readReg r = s.readReg r := rfl

theorem State.readReg_writeReg_of_ne {s : State} {x r : Reg} {v : Byte} (h : some x ≠ some r) :
    (s.writeReg x v).readReg r = s.readReg r := by
  rw [State.readReg_writeReg, if_neg fun e : r = x => h (e ▸ rfl)]

theorem Shape.Next.readReg {sh : Shape} {s t : State} (h : sh.Next s t) {r : Reg} (hr : sh.destination ≠ some r) :
    t.readReg r = s.readReg r := by
  cases h with
  | write op x src => exact State.readReg_writeReg_of_ne hr
  | fetch x src inRange => exact State.readReg_writeReg_of_ne hr
  | input x src => exact State.readReg_writeReg_of_ne (s := s.portRead (src.value s)) hr
  | taken guard b holds => exact State.readReg_congr (b.target_regs s) r
  | _ => rfl

/-- Settles O40, shape by shape. -/
theorem onlyTheDestinationRegisterChanges : Obligations.OnlyTheDestinationRegisterChanges := by
  intro i s t hexec r hr
  exact (exec_next hexec).readReg (destination_eq i ▸ hr)

theorem Shape.Next.sameFlags {sh : Shape} {s t : State} (h : sh.Next s t) (hsh : sh.writesFlags = false) :
    t.z = s.z ∧ t.c = s.c := by
  cases h with
  | write | discard => cases hsh
  | taken guard b holds => exact ⟨b.target_z s, b.target_c s⟩
  | _ => exact ⟨rfl, rfl⟩

/-- Only an ALU write has a destination and writes flags; its Z is that of the result. -/
theorem Shape.Next.z_of_destination {sh : Shape} {s t : State} (h : sh.Next s t) (hsh : sh.writesFlags = true) {r : Reg}
    (hr : sh.destination = some r) : t.z = decide (t.readReg r = 0) := by
  cases h with
  | write op x src =>
    cases hr
    simp [State.readReg_writeReg, alu_zero, beq_eq_decide]
  | discard op x src => cases hr
  | _ => cases hsh

/-- Settles O41: among the shapes with a destination only the ALU write touches the flags. -/
theorem onlyAluClassInstructionsChangeFlags : Obligations.OnlyAluClassInstructionsChangeFlags := by
  intro i s t hexec
  rw [writesFlags_eq, destination_eq]
  exact ⟨(exec_next hexec).sameFlags, fun hsh _ hr => (exec_next hexec).z_of_destination hsh hr⟩

/-! ## Flags as inputs: noninterference

Overwriting Z alone and overwriting C alone are both a change of the two flags, each by a function of itself; one
argument about such a change serves both. -/

/-- Change each flag by a function of itself. -/
def State.mapFlags (s : State) (zf cf : Bool → Bool) : State := s.setFlags (zf s.z) (cf s.c)

theorem alu_of_not_readsCarry {op : AluOp} (h : op.readsCarry = false) (a b : Byte) (cin cin' : Bool) :
    alu op a b cin = alu op a b cin' := by
  cases op with
  | addcy | subcy | sla | sra => cases h
  | _ => rfl

/-- An operation that reads Carry is given the same one, and any other does not care. -/
theorem alu_congr_carry {op : AluOp} {cin cin' : Bool} (h : op.readsCarry = true → cin' = cin) (a b : Byte) :
    alu op a b cin' = alu op a b cin := by
  cases hop : op.readsCarry with
  | true => rw [h hop]
  | false => exact alu_of_not_readsCarry hop a b cin' cin

section
variable {zf cf : Bool → Bool} {s : State}

@[simp] theorem State.mapFlags_c : (s.mapFlags zf cf).c = cf s.c := rfl

@[simp] theorem State.readReg_mapFlags (r : Reg) : (s.mapFlags zf cf).readReg r = s.readReg r := rfl

@[simp] theorem Src.value_mapFlags (src : Src) : src.value (s.mapFlags zf cf) = src.value s := by cases src <;> rfl

theorem guardHolds_mapFlags {guard : Option Cond} {b : Branch} (hz : (Shape.transfer guard b).readsZ = true → zf s.z = s.z)
    (hc : (Shape.transfer guard b).readsC = true → cf s.c = s.c) :
    guardHolds guard (s.mapFlags zf cf) = guardHolds guard s := by
  cases guard with
  | none => rfl
  | some cc =>
    cases cc with
    | z => exact hz rfl
    | nz => exact congrArg not (hz rfl)
    | c => exact hc rfl
    | nc => exact congrArg not (hc rfl)

theorem Branch.target_mapFlags (b : Branch) : b.target (s.mapFlags zf cf) = (b.target s).mapFlags zf cf := by
  cases b <;> rfl

/-- A shape that reads none of the flags a change alters answers the same, but for that change where it writes no flags
itself. -/
theorem Shape.run_mapFlags {sh : Shape} (hz : sh.readsZ = true → zf s.z = s.z) (hc : sh.readsC = true → cf s.c = s.c) :
    sh.run (s.mapFlags zf cf) = mapNext (fun t => if sh.writesFlags then t else t.mapFlags zf cf) (sh.run s) := by
  cases sh with
  | write op x src =>
    have halu := alu_congr_carry (op := op) hc
    simp only [Shape.run, aluWrite, Src.value_mapFlags, State.readReg_mapFlags, State.mapFlags_c, halu]
    rfl
  | discard op x src =>
    have halu := alu_congr_carry (op := op) hc
    simp only [Shape.run, aluDiscard, Src.value_mapFlags, State.readReg_mapFlags, State.mapFlags_c, halu]
    rfl
  | transfer guard b =>
    simp only [Shape.run, guardHolds_mapFlags hz hc, Branch.target_mapFlags]
    split <;> rfl
  | fetch x src =>
    simp only [Shape.run, fetchCell, Src.value_mapFlags]
    split <;> rfl
  | store x src =>
    simp only [Shape.run, storeCell, Src.value_mapFlags]
    split <;> rfl
  | input x src => simp only [Shape.run, inputPort, Src.value_mapFlags]; rfl
  | output x src => simp only [Shape.run, outputPort, Src.value_mapFlags]; rfl

end

/-- Settles O42: both clauses are changes of the flags that leave alone the flag the instruction reads. -/
theorem flagsAreReadOnlyByTheirReaders : Obligations.FlagsAreReadOnlyByTheirReaders := by
  intro i s b
  simp only [readsZ_eq, readsC_eq, writesFlags_eq, exec_eq_run]
  constructor
  · intro hz
    exact Shape.run_mapFlags (zf := fun _ => b) (cf := id) (by simp [hz]) (fun _ => rfl)
  · intro hc
    exact Shape.run_mapFlags (zf := id) (cf := fun _ => b) (fun _ => rfl) (by simp [hc])

/-! ## The return-address ring and the program counter -/

/-- `(sp + 30) mod 31` is one step back on the ring (spec/10_state.md rule R29). -/
theorem sp_move (sp : Fin 31) :
    ((sp + 1 : Fin 31).val : Int) = (sp.val + 1) % 31 ∧ ((sp + 30 : Fin 31).val : Int) = (sp.val + -1) % 31 := by
  omega

theorem sp_stays (sp : Fin 31) : (sp.val : Int) = (sp.val + 0) % 31 := by
  omega

theorem Branch.target_sp (b : Branch) (s : State) :
    ((b.target s).sp.val : Int) = ((s.sp.val : Int) + ringMove (some b.kind)) % 31 := by
  cases b with
  | jump d => exact sp_stays s.sp
  | call d => exact (sp_move s.sp).1
  | ret => exact (sp_move s.sp).2

theorem Branch.target_stack (b : Branch) (s : State) (k : Fin 31) :
    b.kind = .call ∧ k = (b.target s).sp ∨ (b.target s).stack[k] = s.stack[k] := by
  cases b with
  | call d =>
    by_cases hk : k = s.sp + 1
    · exact .inl ⟨rfl, hk⟩
    · exact .inr (Vector.getElem_set_ne (s.sp + 1).isLt k.isLt fun e => hk (Fin.ext e.symm))
  | jump d => exact .inr rfl
  | ret => exact .inr rfl

/-- An instruction that takes no transfer leaves the ring alone and advances pc. -/
theorem Shape.Next.of_not_taken {sh : Shape} {s t : State} (h : sh.Next s t) (hsh : sh.taken s = none) :
    t.sp = s.sp ∧ t.stack = s.stack ∧ t.pc = s.pc + 1 := by
  cases h with
  | taken guard b holds => simp [Shape.taken, holds] at hsh
  | _ => exact ⟨rfl, rfl, rfl⟩

/-- An instruction that takes a transfer does what its branch does. -/
theorem Shape.Next.of_taken {sh : Shape} {s t : State} (h : sh.Next s t) {k : Transfer} (hsh : sh.taken s = some k) :
    ∃ b : Branch, b.kind = k ∧ t = b.target s := by
  cases h with
  | taken guard b holds => exact ⟨b, by simpa [Shape.taken, holds] using hsh, rfl⟩
  | skipped guard b fails => simp [Shape.taken, fails] at hsh
  | _ => cases hsh

/-- Settles O44, by whether a transfer is taken and then by its branch. -/
theorem onlyTakenCallsAndReturnsMoveTheRing : Obligations.OnlyTakenCallsAndReturnsMoveTheRing := by
  intro i s t hexec
  rw [takenTransfer_eq]
  cases htaken : (shapeOf i).taken s with
  | none =>
    obtain ⟨hsp, hstack, -⟩ := (exec_next hexec).of_not_taken htaken
    exact ⟨by rw [hsp]; exact sp_stays s.sp, fun k => .inr (by rw [hstack])⟩
  | some kind =>
    obtain ⟨b, rfl, rfl⟩ := (exec_next hexec).of_taken htaken
    exact ⟨b.target_sp s, fun k => (b.target_stack s k).imp_left fun ⟨hcall, hk⟩ => ⟨congrArg some hcall, hk⟩⟩

/-- Settles O47: ten bits wrap at 1024, and a fault's caller keeps its state. -/
theorem pcAdvancesUnlessATransferIsTaken : Obligations.PcAdvancesUnlessATransferIsTaken := by
  constructor
  · intro i s t hexec htaken
    obtain ⟨-, -, hpc⟩ := (exec_next hexec).of_not_taken (takenTransfer_eq i s ▸ htaken)
    rw [hpc, BitVec.toNat_add]
    rfl
  · intro s f hfault
    rw [stepCall_of_fault hfault]

/-! ## Reset -/

/-- Settles O1: the reset state and the host's reset agree on all the fields that are cleared. -/
theorem resetClearsEverything : Obligations.ResetClearsEverything := by
  constructor
  · rintro s t (rfl | rfl)
    all_goals
      refine ⟨fun r => ?_, rfl, rfl, rfl, fun k => ?_, rfl, fun a _ => rfl, rfl⟩
      · exact Vector.getElem_replicate r.isLt
      · exact Vector.getElem_replicate k.isLt
  · exact fun s => ⟨rfl, fun a => State.wordAt_congr rfl rfl a⟩

end Sys2Proof.Machine

/-! # Proofs about the scratchpad and the ports as memory

Two more tables read off the shape: the cell it stores to and the port event it makes. Each frame statement is again a
case split over `Shape.Next`, and a run adds the events of its steps. -/

namespace Sys2Proof.Machine

/-! ## The scratchpad -/

/-- The cell a shape stores to. -/
def Shape.storedCell (sh : Shape) (s : State) : Option Nat :=
  match sh with
  | .store _ src => some (src.value s).toNat
  | .write _ _ _ | .discard _ _ _ | .transfer _ _ | .fetch _ _ | .input _ _ | .output _ _ => none

theorem storedCell_eq (i : Instr) (s : State) : storedCell i s = (shapeOf i).storedCell s := by cases i <;> rfl

/-- A cell reads the same in two states with the same scratchpad. -/
theorem State.readCell_congr {s t : State} (h : t.scratch = s.scratch) (b : Nat) : t.readCell b = s.readCell b := by
  rw [State.readCell, State.readCell, h]

theorem State.readCell_writeCell_of_ne (s : State) {a b : Nat} (v : Byte) (h : b ≠ a) :
    (s.writeCell a v).readCell b = s.readCell b :=
  (Memory.read_write s.scratch a b v).trans (if_neg h)

theorem Shape.Next.readCell {sh : Shape} {s t : State} (h : sh.Next s t) {b : Nat} (hb : sh.storedCell s ≠ some b) :
    t.readCell b = s.readCell b := by
  cases h with
  | store x src inRange => exact State.readCell_writeCell_of_ne s (s.readReg x) fun e => hb (congrArg some e.symm)
  | taken guard br holds => exact State.readCell_congr (br.target_scratch s) b
  | _ => rfl

/-- Settles O43, shape by shape: only a STORE writes the scratchpad, and a write is read back at its own address alone. -/
theorem onlyTheStoredCellChanges : Obligations.OnlyTheStoredCellChanges := by
  intro i s t hexec b hb
  exact (exec_next hexec).readCell (storedCell_eq i s ▸ hb)

/-! ## The ports over a step -/

/-- The port event a shape makes. -/
def Shape.portEvent (sh : Shape) (s : State) : Option PortEvent :=
  match sh with
  | .input _ src => some (.read (src.value s) (s.portAnswer (src.value s)))
  | .output x src => some (.write (src.value s) (s.readReg x))
  | .write _ _ _ | .discard _ _ _ | .transfer _ _ | .fetch _ _ | .store _ _ => none

theorem portEventOf_eq (i : Instr) (s : State) : portEventOf i s = (shapeOf i).portEvent s := by cases i <;> rfl

/-- The port answers still waiting after an event: a read uses one up, if any waits (log 1). -/
def waitingAfter (event : Option PortEvent) (waiting : List Byte) : List Byte :=
  match event with
  | some (.read _ _) => waiting.tail
  | _ => waiting

@[simp] theorem Branch.target_portLog (b : Branch) (s : State) : (b.target s).portLog = s.portLog := by cases b <;> rfl
@[simp] theorem Branch.target_portIn (b : Branch) (s : State) : (b.target s).portIn = s.portIn := by cases b <;> rfl

theorem Shape.Next.portLog {sh : Shape} {s t : State} (h : sh.Next s t) :
    t.portLog = s.portLog ++ (sh.portEvent s).toList := by
  cases h with
  | input | output => rfl
  | taken guard b holds => exact (b.target_portLog s).trans (List.append_nil _).symm
  | _ => exact (List.append_nil _).symm

theorem Shape.Next.portIn {sh : Shape} {s t : State} (h : sh.Next s t) :
    t.portIn = waitingAfter (sh.portEvent s) s.portIn := by
  cases h with
  | taken guard b holds => exact b.target_portIn s
  | _ => rfl

/-- Settles O45, shape by shape. -/
theorem portEventsAreExactlyThoseOfPortInstructions : Obligations.PortEventsAreExactlyThoseOfPortInstructions := by
  intro i s t hexec
  rw [portEventOf_eq]
  exact ⟨(exec_next hexec).portLog, (exec_next hexec).portIn⟩

/-! ## The port log over a run -/

theorem step_portLog {s t : State} (h : step s = .next t) :
    ∃ event : Option PortEvent, t.portLog = s.portLog ++ event.toList := by
  obtain ⟨i, -, hexec⟩ := step_next h
  exact ⟨_, (exec_next hexec).portLog⟩

/-- A run appends the events of its steps; one that stops early appends fewer. -/
theorem runLoop_portLog (n : Nat) (s : State) :
    ∃ events : List PortEvent, (runLoop n s).1.portLog = s.portLog ++ events ∧ events.length ≤ n := by
  induction n generalizing s with
  | zero => exact ⟨[], (List.append_nil _).symm, Nat.le_refl 0⟩
  | succ n ih =>
    rcases stepCall_cases s with ⟨t, hnext, hcall⟩ | ⟨why, hcall⟩ <;> simp only [runLoop, hcall]
    · obtain ⟨event, hevent⟩ := step_portLog hnext
      obtain ⟨events, hevents, hlength⟩ := ih t
      have hone : event.toList.length ≤ 1 := by cases event <;> simp
      refine ⟨event.toList ++ events, by rw [hevents, hevent, List.append_assoc], ?_⟩
      rw [List.length_append]
      omega
    · exact ⟨[], (List.append_nil _).symm, Nat.zero_le _⟩

/-- Settles O54: what a run appends leaves the older events at the front. -/
theorem portLogOnlyGrowsByAtMostOneEventAStep : Obligations.PortLogOnlyGrowsByAtMostOneEventAStep := by
  intro n s
  obtain ⟨events, hlog, hlength⟩ := runLoop_portLog n s
  rw [hlog, List.length_append]
  exact ⟨⟨events, rfl⟩, Nat.add_le_add_left hlength _⟩

end Sys2Proof.Machine

/-! # Proofs about the encoding

Decoding what the encoder writes is read off format by format. In the other direction `decode_faithful` says once what
the decoder can answer for a word: an instruction whose own word is the canonical form of that word, or the cause for
which rule R88 names it. That unexamined bits do not matter, and that the rows of the opcode table are disjoint and cover
the legal words, follows from it. -/

namespace Sys2Proof

/-! ## Decoding a word of each format -/

section
variable {g : BitVec 6}

theorem decode_formRI {row : Reg → Byte → Instr}
    (h : ∀ w, fieldGroup w = g → decode w = .ok (row (fieldReg1 w) (fieldImm8 w))) (x : Reg) (k : Byte) :
    decode (formRI g x k) = .ok (row x k) := by
  rw [h _ (fieldGroup_formRI g x k), fieldReg1_formRI, fieldImm8_formRI]

theorem decode_formRR {row : Reg → Reg → Instr}
    (h : ∀ w, fieldGroup w = g → decode w = .ok (row (fieldReg1 w) (fieldReg2 w))) (x y : Reg) :
    decode (formRR g x y) = .ok (row x y) := by
  rw [h _ (fieldGroup_formRR g x y), fieldReg1_formRR, fieldReg2_formRR]

theorem decode_formSH (x : Reg) (sel : BitVec 4) : decode (formSH x sel) = decodeShift x sel := by
  rw [decode, fieldGroup_formSH, fieldReg1_formSH, fieldSelector_formSH]
  rfl

theorem decode_formB {row : Byte → Instr} (h : ∀ w, fieldGroup w = g → decode w = .ok (row (fieldImm8 w)))
    (t : Byte) : decode (formB g t) = .ok (row t) := by
  rw [h _ (fieldGroup_formB g t), fieldImm8_formB]

theorem decode_formBC_jump (f : BitVec 4) (t : Byte) :
    decode (formBC 0x35 f t) = decodeCond f (.jumpZ t) (.jumpNZ t) (.jumpC t) (.jumpNC t) := by
  rw [decode, fieldGroup_formBC, fieldCond_formBC, fieldImm8_formBC]
  rfl

theorem decode_formBC_call (f : BitVec 4) (t : Byte) :
    decode (formBC 0x31 f t) = decodeCond f (.callZ t) (.callNZ t) (.callC t) (.callNC t) := by
  rw [decode, fieldGroup_formBC, fieldCond_formBC, fieldImm8_formBC]
  rfl

end

/-- Settles O2, format by format: the fields of an encoded word are the operands it was made of. -/
theorem decodeEncodeIsIdentity : Obligations.DecodeEncodeIsIdentity := by
  intro i
  cases i with
  | loadImm x k | andImm x k | orImm x k | xorImm x k | addImm x k | addcyImm x k | subImm x k | subcyImm x k
  | compareImm x k | testImm x k | fetchImm x k | storeImm x k | inputImm x k | outputImm x k =>
    exact decode_formRI (fun w hg => by rw [decode, hg]; rfl) x k
  | loadReg x y | andReg x y | orReg x y | xorReg x y | addReg x y | addcyReg x y | subReg x y | subcyReg x y
  | compareReg x y | testReg x y | fetchInd x y | storeInd x y | inputInd x y | outputInd x y =>
    exact decode_formRR (fun w hg => by rw [decode, hg]; rfl) x y
  | rl x | rr x | sl0 x | sl1 x | sla x | slx x | sr0 x | sr1 x | sra x | srx x => exact decode_formSH x _
  | jump t | call t => exact decode_formB (fun w hg => by rw [decode, hg]; rfl) t
  | jumpZ t | jumpNZ t | jumpC t | jumpNC t => exact decode_formBC_jump _ t
  | callZ t | callNZ t | callC t | callNC t => exact decode_formBC_call _ t
  | ret | retZ | retNZ | retC | retNC => rfl

/-! ## A word as its four fields -/

/-- The nibble `w[7:4]`, of which `fieldReg2` is the number (R71). -/
def fieldNibble (w : Word) : BitVec 4 := w.extractLsb' 4 4

theorem fieldImm8_eq_append (w : Word) : fieldImm8 w = fieldNibble w ++ fieldSelector w :=
  (BitVec.extractLsb'_append_extractLsb'_eq_extractLsb' (start₁ := 0) (len₁ := 4) rfl).symm

theorem formRI_fields (w : Word) : formRI (fieldGroup w) (fieldReg1 w) (fieldImm8 w) = w := by
  apply BitVec.eq_of_toNat_eq
  rw [formRI_toNat, fieldGroup_toNat, fieldReg1_val, fieldImm8_toNat]
  omega

theorem append_nibbles_assoc (a : BitVec 10) (m n : BitVec 4) : a ++ m ++ n = a ++ (m ++ n) :=
  BitVec.append_assoc

theorem append_fields (w : Word) : fieldGroup w ++ fieldCond w ++ fieldNibble w ++ fieldSelector w = w := by
  rw [append_nibbles_assoc, ← fieldImm8_eq_append]
  exact formRI_fields w

/-- A mask that keeps the whole group acts on the three nibbles below it one by one. -/
theorem and_nibbles (w : Word) (a b c : BitVec 4) :
    w &&& (BitVec.allOnes 6 ++ a ++ b ++ c) =
      fieldGroup w ++ (fieldCond w &&& a) ++ (fieldNibble w &&& b) ++ (fieldSelector w &&& c) := by
  conv_lhs => rw [← append_fields w]
  rw [Laws.and_append, Laws.and_append, Laws.and_append, BitVec.and_allOnes]

theorem fieldGroup_and (v w : Word) : fieldGroup (v &&& w) = fieldGroup v &&& fieldGroup w := BitVec.extractLsb'_and

theorem fieldCond_and (v w : Word) : fieldCond (v &&& w) = fieldCond v &&& fieldCond w := BitVec.extractLsb'_and

theorem fieldSelector_and (v w : Word) : fieldSelector (v &&& w) = fieldSelector v &&& fieldSelector w :=
  BitVec.extractLsb'_and

/-! ## Canonical words -/

/-- The formats, told apart by the nibbles they examine: format BC examines all three, as RI does (R73, R89). -/
inductive Format where
  | ri | rr | sh | b | rt | rtc

/-- The format of an opcode group (R80); an illegal group counts as RI, which has no unexamined bits. -/
def formatOf (g : BitVec 6) : Format :=
  if g ∈ [0x01#6, 0x05#6, 0x07#6, 0x0B#6, 0x0D#6, 0x0F#6, 0x13#6, 0x15#6, 0x19#6, 0x1B#6, 0x1D#6, 0x1F#6, 0x2D#6,
    0x2F#6] then .rr
  else if g = 0x20#6 then .sh
  else if g ∈ [0x30#6, 0x34#6] then .b
  else if g = 0x2A#6 then .rt
  else if g = 0x2B#6 then .rtc
  else .ri

/-- The bits a word of this format does not examine (R89). -/
def Format.unexamined : Format → Word
  | .ri => 0
  | .rr => 0x0000F
  | .sh => 0x000F0
  | .b => 0x00F00
  | .rt => 0x00FFF
  | .rtc => 0x000FF

/-- The canonical word of a format with these fields: a nibble that the format does not examine is zero (R90). -/
def Format.word (fmt : Format) (g : BitVec 6) (x m n : BitVec 4) : Word :=
  match fmt with
  | .ri => g ++ x ++ (m ++ n)
  | .rr => g ++ x ++ m ++ 0#4
  | .sh => g ++ x ++ 0#4 ++ n
  | .b => g ++ 0#4 ++ (m ++ n)
  | .rt => g ++ 0#4 ++ 0#4 ++ 0#4
  | .rtc => g ++ x ++ 0#4 ++ 0#4

theorem unexaminedMask_eq (w : Word) : unexaminedMask w = (formatOf (fieldGroup w)).unexamined := by
  have hsample : ∀ g : BitVec 6, unexaminedMask (formB g 0) = (formatOf g).unexamined := by decide
  have hgroup : w.toNat / 0x1000 = (formB (fieldGroup w) 0).toNat / 0x1000 := by
    rw [← fieldGroup_toNat, ← fieldGroup_toNat, fieldGroup_formB]
  rw [← hsample, unexaminedMask, unexaminedMask, hgroup]

theorem canonicalize_of_group {w : Word} {g : BitVec 6} (hg : fieldGroup w = g) :
    canonicalize w = (formatOf g).word g (fieldCond w) (fieldNibble w) (fieldSelector w) := by
  have hkept := and_nibbles w
  rw [canonicalize, unexaminedMask_eq, ← hg]
  cases formatOf (fieldGroup w) with
  | ri => exact BitVec.and_allOnes.trans ((append_fields w).symm.trans (append_nibbles_assoc ..))
  | rr =>
    refine (hkept (.allOnes 4) (.allOnes 4) 0#4).trans ?_
    rw [BitVec.and_allOnes, BitVec.and_allOnes, BitVec.and_zero, Format.word]
  | sh =>
    refine (hkept (.allOnes 4) 0#4 (.allOnes 4)).trans ?_
    rw [BitVec.and_allOnes, BitVec.and_zero, BitVec.and_allOnes, Format.word]
  | b =>
    refine (hkept 0#4 (.allOnes 4) (.allOnes 4)).trans ?_
    rw [BitVec.and_zero, BitVec.and_allOnes, BitVec.and_allOnes, append_nibbles_assoc, Format.word]
  | rt =>
    refine (hkept 0#4 0#4 0#4).trans ?_
    rw [BitVec.and_zero, BitVec.and_zero, BitVec.and_zero, Format.word]
  | rtc =>
    refine (hkept (.allOnes 4) 0#4 0#4).trans ?_
    rw [BitVec.and_allOnes, BitVec.and_zero, BitVec.and_zero, Format.word]

/-! ## Illegal words -/

/-- Rule R88 read on the fields of a word. -/
def illegalityOf (g : BitVec 6) (sel f : BitVec 4) : Option IllegalCause :=
  if g.toNat ∈ illegalGroups then some .group
  else if g = 0x20#6 ∧ sel.toNat ∈ illegalSelectors then some .selector
  else if g.toNat ∈ conditionalGroups ∧ f.toNat % 4 ≠ 0 then some .condition
  else none

theorem illegality_of_group {w : Word} {g : BitVec 6} (hg : fieldGroup w = g) :
    illegality w = illegalityOf g (fieldSelector w) (fieldCond w) := by
  have hcond : w.toNat / 0x100 % 16 % 4 = w.toNat / 0x100 % 4 := by omega
  have hshift : fieldGroup w = 0x20#6 ↔ w.toNat / 0x1000 = 0x20 := by rw [← BitVec.toNat_inj, fieldGroup_toNat]; rfl
  simp only [illegality, illegalityOf, ← hg, hshift, fieldGroup_toNat, fieldSelector_toNat, fieldCond_toNat, hcond]

theorem illegalityOf_shift (sel f : BitVec 4) :
    illegalityOf 0x20#6 sel f = if sel.toNat ∈ illegalSelectors then some .selector else none := by
  simp [illegalityOf, illegalGroups, conditionalGroups]

theorem illegalityOf_conditional {g : BitVec 6} (hg : g.toNat ∈ conditionalGroups) (sel f : BitVec 4) :
    illegalityOf g sel f = if f.toNat % 4 = 0 then none else some .condition := by
  obtain ⟨hlegal, hshift⟩ : g.toNat ∉ illegalGroups ∧ g ≠ 0x20#6 := by
    revert g
    decide
  simp [illegalityOf, hlegal, hshift, hg]

/-- Only the shift group looks at the selector, and only the conditional groups at the condition field. -/
theorem illegalityOf_congr {g : BitVec 6} {sel sel' f f' : BitVec 4} (hsel : g = 0x20#6 → sel = sel')
    (hcond : g.toNat ∈ conditionalGroups → f = f') : illegalityOf g sel f = illegalityOf g sel' f' := by
  have hshift : g = 0x20#6 ∧ sel.toNat ∈ illegalSelectors ↔ g = 0x20#6 ∧ sel'.toNat ∈ illegalSelectors :=
    and_congr_right fun h => by rw [hsel h]
  have hfield :
      g.toNat ∈ conditionalGroups ∧ f.toNat % 4 ≠ 0 ↔ g.toNat ∈ conditionalGroups ∧ f'.toNat % 4 ≠ 0 :=
    and_congr_right fun h => by rw [hcond h]
  simp only [illegalityOf, hshift, hfield]

/-- The groups that rule R88 does not list are the 35 of the opcode map. -/
theorem illegalityOf_unlisted {g : BitVec 6}
    (hg : g ∉ [0x00#6, 0x01#6, 0x04#6, 0x05#6, 0x06#6, 0x07#6, 0x0A#6, 0x0B#6, 0x0C#6, 0x0D#6, 0x0E#6, 0x0F#6, 0x12#6,
      0x13#6, 0x14#6, 0x15#6, 0x18#6, 0x19#6, 0x1A#6, 0x1B#6, 0x1C#6, 0x1D#6, 0x1E#6, 0x1F#6, 0x20#6, 0x2A#6, 0x2B#6,
      0x2C#6, 0x2D#6, 0x2E#6, 0x2F#6, 0x30#6, 0x31#6, 0x34#6, 0x35#6])
    (sel f : BitVec 4) : illegalityOf g sel f = some .group := by
  have hlisted : g.toNat ∈ illegalGroups := by
    revert g
    decide
  exact if_pos hlisted

/-! ## What the decoder answers -/

/-- An answer of the decoder is faithful to a word: an instruction when no item of rule R88 names the word, and then one
whose own word is the word's canonical form; else the cause of the item that names it. -/
def Faithful (w : Word) : Except IllegalCause Instr → Prop
  | .ok i => illegality w = none ∧ encode i = canonicalize w
  | .error cause => illegality w = some cause

theorem decodeShift_faithful {w : Word} (hg : fieldGroup w = 0x20#6) :
    Faithful w (decodeShift (fieldReg1 w) (fieldSelector w)) := by
  have hill := illegality_of_group hg
  have hcanon := canonicalize_of_group hg
  rw [illegalityOf_shift] at hill
  generalize fieldSelector w = sel at *
  unfold decodeShift
  split
  case h_11 =>
    refine hill.trans (if_pos ?_)
    clear hill hcanon
    decide +revert
  all_goals exact ⟨hill, hcanon.symm⟩

theorem decodeCond_faithful {w : Word} {g : BitVec 6} {iZ iNZ iC iNC : Instr} (hg : fieldGroup w = g)
    (hcond : g.toNat ∈ conditionalGroups)
    (hZ : encode iZ = (formatOf g).word g 0x0 (fieldNibble w) (fieldSelector w))
    (hNZ : encode iNZ = (formatOf g).word g 0x4 (fieldNibble w) (fieldSelector w))
    (hC : encode iC = (formatOf g).word g 0x8 (fieldNibble w) (fieldSelector w))
    (hNC : encode iNC = (formatOf g).word g 0xC (fieldNibble w) (fieldSelector w)) :
    Faithful w (decodeCond (fieldCond w) iZ iNZ iC iNC) := by
  have hill := illegality_of_group hg
  have hcanon := canonicalize_of_group hg
  rw [illegalityOf_conditional hcond] at hill
  generalize fieldCond w = f at *
  unfold decodeCond
  split
  · exact ⟨hill, hZ.trans hcanon.symm⟩
  · exact ⟨hill, hNZ.trans hcanon.symm⟩
  · exact ⟨hill, hC.trans hcanon.symm⟩
  · exact ⟨hill, hNC.trans hcanon.symm⟩
  · refine hill.trans (if_neg ?_)
    clear hill hcanon
    decide +revert

/-- Group by group of the opcode map (R80). The branches named below are group 0x20, the three conditional groups, and
the groups that are not listed. -/
theorem decode_faithful (w : Word) : Faithful w (decode w) := by
  rw [decode, fieldImm8_eq_append]
  split
  case h_25 hg => exact decodeShift_faithful hg
  case h_27 hg | h_33 hg | h_35 hg => exact decodeCond_faithful hg (by decide) rfl rfl rfl rfl
  case h_36 =>
    refine (illegality_of_group rfl).trans (illegalityOf_unlisted ?_ _ _)
    simp only [List.mem_cons, List.not_mem_nil, or_false, not_or]
    and_intros <;> assumption
  all_goals
    rename_i hg
    exact ⟨illegality_of_group hg, (canonicalize_of_group hg).symm⟩

theorem decode_ok {w : Word} {i : Instr} (h : decode w = .ok i) : illegality w = none ∧ encode i = canonicalize w := by
  have hw := decode_faithful w
  rwa [h] at hw

theorem decode_error {w : Word} {cause : IllegalCause} (h : decode w = .error cause) : illegality w = some cause := by
  have hw := decode_faithful w
  rwa [h] at hw

theorem decode_error_iff (w : Word) (cause : IllegalCause) : decode w = .error cause ↔ illegality w = some cause := by
  cases hd : decode w with
  | ok i => rw [(decode_ok hd).1]; exact iff_of_false nofun nofun
  | error c => rw [decode_error hd, Except.error.injEq, Option.some.injEq]

theorem decode_ok_iff (w : Word) : (∃ i, decode w = .ok i) ↔ illegality w = none := by
  cases hd : decode w with
  | ok i => exact iff_of_true ⟨i, rfl⟩ (decode_ok hd).1
  | error c => rw [decode_error hd]; exact iff_of_false nofun nofun

/-- Settles O3: the instruction that the decoder answers keeps the examined nibbles of the word as its operands. -/
theorem encodeDecodeIsCanonicalWord : Obligations.EncodeDecodeIsCanonicalWord :=
  fun _ _ h => (decode_ok h).2

/-- Settles O5, both clauses from what the decoder can answer for a word. -/
theorem decodeRejectsExactlyIllegalWords : Obligations.DecodeRejectsExactlyIllegalWords :=
  fun w => ⟨decode_error_iff w, (decode_ok_iff w).trans beq_iff_eq.symm⟩

/-! ## Bits that do not matter -/

/-- A mask keeps every bit on which the legality of a word of this group depends. -/
abbrev KeepsLegality (g : BitVec 6) (mask : Word) : Prop :=
  fieldGroup mask = .allOnes 6 ∧ (g = 0x20#6 → fieldSelector mask = .allOnes 4) ∧
    (g.toNat ∈ conditionalGroups → fieldCond mask = .allOnes 4)

theorem fieldGroup_and_of_keepsLegality {g : BitVec 6} {mask : Word} (h : KeepsLegality g mask) (w : Word) :
    fieldGroup (w &&& mask) = fieldGroup w := by
  rw [fieldGroup_and, h.1, BitVec.and_allOnes]

theorem illegality_and {w mask : Word} (h : KeepsLegality (fieldGroup w) mask) :
    illegality (w &&& mask) = illegality w := by
  rw [illegality_of_group (fieldGroup_and_of_keepsLegality h w), illegality_of_group rfl, fieldSelector_and,
    fieldCond_and]
  obtain ⟨-, hsel, hcond⟩ := h
  refine illegalityOf_congr (fun hshift => ?_) (fun hconditional => ?_)
  · rw [hsel hshift, BitVec.and_allOnes]
  · rw [hcond hconditional, BitVec.and_allOnes]

theorem examined_keepsLegality (w : Word) : KeepsLegality (fieldGroup w) (~~~ unexaminedMask w) := by
  have hgroups : ∀ g : BitVec 6, KeepsLegality g (~~~ (formatOf g).unexamined) := by decide
  rw [unexaminedMask_eq]
  exact hgroups _

theorem illegality_canonicalize (w : Word) : illegality (canonicalize w) = illegality w :=
  illegality_and (examined_keepsLegality w)

theorem decode_canonicalize (w : Word) : decode (canonicalize w) = decode w := by
  cases hd : decode w with
  | ok i => rw [← (decode_ok hd).2]; exact decodeEncodeIsIdentity i
  | error cause => rw [decode_error_iff, illegality_canonicalize, ← decode_error_iff, hd]

/-- Settles O4: both words decode as their common canonical form does. -/
theorem decodeIgnoresUnexaminedBits : Obligations.DecodeIgnoresUnexaminedBits := by
  intro v w h
  rw [← decode_canonicalize v, h, decode_canonicalize]

/-! ## The opcode table -/

theorem rowMatches_iff (row : TableRow) (w : Word) : rowMatches row w = true ↔ w &&& row.mask = row.pattern :=
  beq_iff_eq

theorem rowOf_mem (i : Instr) : rowOf i ∈ opcodeTable := by
  cases i <;> exact of_decide_eq_true rfl

theorem encode_matches_rowOf (i : Instr) : encode i &&& (rowOf i).mask = (rowOf i).pattern := by
  cases i with
  | loadImm x k | andImm x k | orImm x k | xorImm x k | addImm x k | addcyImm x k | subImm x k | subcyImm x k
  | compareImm x k | testImm x k | fetchImm x k | storeImm x k | inputImm x k | outputImm x k =>
    exact (Laws.formRI_fixed _ x k).trans rfl
  | loadReg x y | andReg x y | orReg x y | xorReg x y | addReg x y | addcyReg x y | subReg x y | subcyReg x y
  | compareReg x y | testReg x y | fetchInd x y | storeInd x y | inputInd x y | outputInd x y =>
    exact (Laws.formRR_fixed _ x y).trans rfl
  | rl x | rr x | sl0 x | sl1 x | sla x | slx x | sr0 x | sr1 x | sra x | srx x =>
    exact (Laws.formSH_fixed x _).trans rfl
  | jump t | call t => exact (Laws.formB_fixed _ t).trans rfl
  | jumpZ t | jumpNZ t | jumpC t | jumpNC t | callZ t | callNZ t | callC t | callNC t =>
    exact (Laws.formBC_fixed _ _ t).trans rfl
  | ret | retZ | retNZ | retC | retNC => rfl

/-- Two rows whose fixed bits agree where both fix them are the same row. -/
theorem opcodeTable_disjoint :
    ∀ r ∈ opcodeTable, ∀ q ∈ opcodeTable, r.pattern &&& q.mask = q.pattern &&& r.mask → r = q := by decide

theorem opcodeTable_legal : ∀ row ∈ opcodeTable, illegality row.pattern = none := by decide

theorem opcodeTable_keepsLegality : ∀ row ∈ opcodeTable, KeepsLegality (fieldGroup row.pattern) row.mask := by decide

/-- A row fixes none of the bits that its format does not examine. -/
theorem opcodeTable_examined :
    ∀ row ∈ opcodeTable, ~~~ (formatOf (fieldGroup row.pattern)).unexamined &&& row.mask = row.mask := by decide

theorem fieldGroup_pattern {w : Word} {row : TableRow} (hrow : row ∈ opcodeTable) (h : w &&& row.mask = row.pattern) :
    fieldGroup row.pattern = fieldGroup w := by
  rw [← h]
  exact fieldGroup_and_of_keepsLegality (opcodeTable_keepsLegality row hrow) w

theorem matches_of_decode {w : Word} {i : Instr} (h : decode w = .ok i) :
    w &&& (rowOf i).mask = (rowOf i).pattern := by
  obtain ⟨-, hencode⟩ := decode_ok h
  have hgroup : fieldGroup (rowOf i).pattern = fieldGroup w := by
    rw [fieldGroup_pattern (rowOf_mem i) (encode_matches_rowOf i), hencode]
    exact fieldGroup_and_of_keepsLegality (examined_keepsLegality w) w
  have hmask := opcodeTable_examined _ (rowOf_mem i)
  rw [hgroup, ← unexaminedMask_eq] at hmask
  calc w &&& (rowOf i).mask
    _ = canonicalize w &&& (rowOf i).mask := by rw [canonicalize, BitVec.and_assoc, hmask]
    _ = encode i &&& (rowOf i).mask := by rw [hencode]
    _ = (rowOf i).pattern := encode_matches_rowOf i

/-- A word that matches a row is as legal as the row's pattern, and what it decodes to can only be of that row. -/
theorem decode_of_matches {w : Word} {row : TableRow} (hrow : row ∈ opcodeTable) (h : w &&& row.mask = row.pattern) :
    ∃ i, decode w = .ok i ∧ rowOf i = row := by
  have hkeeps := opcodeTable_keepsLegality row hrow
  rw [fieldGroup_pattern hrow h] at hkeeps
  have hlegal := opcodeTable_legal row hrow
  rw [← h, illegality_and hkeeps] at hlegal
  obtain ⟨i, hi⟩ := (decode_ok_iff w).2 hlegal
  refine ⟨i, hi, opcodeTable_disjoint _ (rowOf_mem i) row hrow ?_⟩
  rw [← matches_of_decode hi, ← h, BitVec.and_assoc, BitVec.and_assoc, BitVec.and_comm row.mask]

/-- Settles O6: the decoder answers an instruction of every row that a word matches, and of no other row. -/
theorem wordIsTheInstructionOfItsTableRow : Obligations.WordIsTheInstructionOfItsTableRow := by
  refine ⟨rfl, fun w row hrow => ?_⟩
  rw [rowMatches_iff]
  constructor
  · exact decode_of_matches hrow
  · rintro ⟨i, hi, rfl⟩
    exact matches_of_decode hi

end Sys2Proof

/-! # Proofs about the program text

The lines of a text, the words of its lines and the image of those words, each by induction on its list. -/

namespace Sys2Proof.Machine

/-! ## Lines of a text -/

theorem linesFrom_ne_nil (acc text : List Char) : linesFrom acc text ≠ [] := by
  induction text generalizing acc with
  | nil => exact List.cons_ne_nil _ _
  | cons ch rest ih =>
    rw [linesFrom]
    split
    · exact List.cons_ne_nil _ _
    · exact ih _

/-- Putting the lines together again gives the text, after the part of the first line already read. -/
theorem intercalate_linesFrom (acc text : List Char) :
    ['\n'].intercalate (linesFrom acc text) = acc.reverse ++ text := by
  induction text generalizing acc with
  | nil => simp [linesFrom]
  | cons ch rest ih =>
    rw [linesFrom]
    split
    next hfeed => rw [List.intercalate_cons_of_ne_nil (linesFrom_ne_nil [] rest), ih, hfeed]; simp
    next => rw [ih, List.reverse_cons, List.append_assoc]; rfl

theorem not_mem_linesFrom {acc : List Char} (hacc : '\n' ∉ acc) (text : List Char) :
    ∀ line ∈ linesFrom acc text, '\n' ∉ line := by
  induction text generalizing acc with
  | nil => simpa [linesFrom] using hacc
  | cons ch rest ih =>
    rw [linesFrom]
    split
    next =>
      rintro line (_ | ⟨_, hline⟩)
      · exact fun h => hacc (List.mem_reverse.1 h)
      · exact ih List.not_mem_nil line hline
    next hother => exact ih (List.not_mem_cons_of_ne_of_not_mem (Ne.symm hother) hacc)

/-- The words of the lines are the tokens of the lines that are not ignored, in order. -/
theorem tokens_of_wordsOfLines {lines : List (List Char)} {ws : List Word} (h : wordsOfLines lines = some ws) :
    (lines.filter fun line => !ignoredLine line).map tokenWord = ws.map some := by
  induction lines generalizing ws with
  | nil => cases h; rfl
  | cons line rest ih =>
    rw [wordsOfLines] at h
    split at h
    next hignored =>
      rw [List.filter_cons_of_neg (by simp [hignored])]
      exact ih h
    next htoken =>
      obtain ⟨w, hw, h⟩ := Option.bind_eq_some_iff.1 h
      obtain ⟨ws', hrest, rfl⟩ := Option.map_eq_some_iff.1 h
      rw [List.filter_cons_of_pos (by simp [htoken]), List.map_cons, List.map_cons, hw, ih hrest]

theorem wordsOfText_some {text : List Char} {ws : List Word} (h : wordsOfText text = some ws) :
    wordsOfLines (linesFrom [] text) = some ws ∧ ws.length ≤ 1024 := by
  obtain ⟨ws', hlines, hlength⟩ := Option.bind_eq_some_iff.1 h
  split at hlength
  next hle =>
    cases hlength
    exact ⟨hlines, hle⟩
  next => cases hlength

/-! ## The image of a list of words and its load -/

theorem imageFrom_bounds {a : Nat} {ws : List Word} : ∀ cell ∈ imageFrom a ws, a ≤ cell.1 ∧ cell.1 < a + ws.length := by
  induction ws generalizing a with
  | nil => simp [imageFrom]
  | cons w rest ih =>
    rintro cell (_ | ⟨_, hcell⟩)
    · simp
    · have := ih cell hcell
      simp only [List.length_cons]
      omega

theorem rising_imageFrom (a : Nat) (ws : List Word) : Rising (imageFrom a ws) := by
  induction ws generalizing a with
  | nil => exact List.Pairwise.nil
  | cons w rest ih => exact List.pairwise_cons.2 ⟨fun cell hcell => (imageFrom_bounds cell hcell).1, ih (a + 1)⟩

theorem imageFrom_wf {ws : List Word} (h : ws.length ≤ 1024) : ProgramMemory.wf (imageFrom 0 ws) := by
  refine ⟨rising_imageFrom 0 ws, fun cell hcell => ?_⟩
  have := (imageFrom_bounds cell hcell).2
  omega

theorem lookupAt_imageFrom (a n : Nat) (ws : List Word) : lookupAt (a + n) (imageFrom a ws) = ws[n]? := by
  induction ws generalizing a n with
  | nil => rfl
  | cons w rest ih =>
    cases n with
    | zero => exact if_pos rfl
    | succ n =>
      rw [imageFrom, lookupAt, if_neg (by omega), List.getElem?_cons_succ, ← ih (a + 1) n]
      congr 1
      omega

theorem wordAt_hostLoad (s : State) {image : ProgramMemory} {a : Nat} {w : Word} (ha : a < 1024)
    (h : lookupAt a image = some w) : (s.hostLoad image).wordAt (BitVec.ofNat 10 a) = w := by
  rw [State.wordAt, State.hostLoad_prog, BitVec.toNat_ofNat, Nat.mod_eq_of_lt ha, h, Option.getD_some]

theorem applyHost_load {image : ProgramMemory} (h : ProgramMemory.wf image) (s : State) :
    applyHost (.load image) s = some (s.hostLoad image) := if_pos h

theorem loadText_eq {text : List Char} {ws : List Word} (h : wordsOfText text = some ws) (s : State) :
    loadText text s = some (s.hostLoad (imageFrom 0 ws)) := by
  rw [loadText, h, Option.bind_some, applyHost_load (imageFrom_wf (wordsOfText_some h).2)]

/-- Settles O59: the reader keeps the tokens in order, and the image holds the n-th word at address n. -/
theorem programTextPlacesTokensInOrder : Obligations.ProgramTextPlacesTokensInOrder := by
  intro text ws s h
  obtain ⟨hlines, hlength⟩ := wordsOfText_some h
  refine ⟨intercalate_linesFrom [] text, not_mem_linesFrom List.not_mem_nil text, tokens_of_wordsOfLines hlines,
    hlength, s.hostLoad (imageFrom 0 ws), loadText_eq h s, fun n hn => ?_, rfl, rfl⟩
  refine wordAt_hostLoad s (by omega) ?_
  have hlookup := lookupAt_imageFrom 0 n ws
  rwa [Nat.zero_add, List.getElem?_eq_getElem hn] at hlookup

end Sys2Proof.Machine

/-! # Proofs about the ALU instructions

Every ALU instruction is `aluWrite` or `aluDiscard` with an operation and a second operand that is an immediate or a
register, and both forms mean the same in the value of that operand. So what an operation does is said once, for every
`Src`: the three general lemmas read it off the pre-mask result of rule R100 (a byte, a sum or a difference), and one
lemma per operation applies them. A statement is then its two words and its two meanings. -/

namespace Sys2Proof.Machine

/-! ## The words of the imm and the reg form -/

/-- The number `group * 0x1000 + X * 0x100 + kk` decodes to the instruction with that word of format RI (R73). -/
theorem decode_immWord {i : Instr} {base : Nat} {g : BitVec 6} {x : Reg} {k : Byte} (hi : encode i = formRI g x k)
    (hbase : base = g.toNat * 0x1000) : decode (BitVec.ofNat 18 (base + x.val * 0x100 + k.toNat)) = .ok i := by
  rw [hbase, ← formRI_toNat, BitVec.ofNat_toNat, BitVec.setWidth_eq, ← hi, decodeEncodeIsIdentity]

/-- The number `group * 0x1000 + X * 0x100 + Y * 0x10` decodes to the instruction with that word of format RR (R73). -/
theorem decode_regWord {i : Instr} {base : Nat} {g : BitVec 6} {x y : Reg} (hi : encode i = formRR g x y)
    (hbase : base = g.toNat * 0x1000) : decode (BitVec.ofNat 18 (base + x.val * 0x100 + y.val * 0x10)) = .ok i := by
  rw [hbase, ← formRR_toNat, BitVec.ofNat_toNat, BitVec.setWidth_eq, ← hi, decodeEncodeIsIdentity]

/-! ## The next states of the ALU rules -/

theorem State.readReg_afterArith (s : State) (x q : Reg) (t : Int) (carry : Bool) :
    (s.afterArith x t carry).readReg q = if q = x then BitVec.ofInt 8 t else s.readReg q :=
  s.readReg_writeReg x q (BitVec.ofInt 8 t)

@[simp] theorem State.readReg_afterArith_self (s : State) (x : Reg) (t : Int) (carry : Bool) :
    (s.afterArith x t carry).readReg x = BitVec.ofInt 8 t := by
  rw [readReg_afterArith, if_pos rfl]

theorem State.readReg_afterArith_of_ne {s : State} {x q : Reg} {t : Int} {carry : Bool} (h : q ≠ x) :
    (s.afterArith x t carry).readReg q = s.readReg q := by
  rw [readReg_afterArith, if_neg h]

@[simp] theorem State.afterArith_c (s : State) (x : Reg) (t : Int) (carry : Bool) :
    (s.afterArith x t carry).c = carry := rfl

@[simp] theorem Src.value_reg (y : Reg) (s : State) : (Src.reg y).value s = s.readReg y := rfl

theorem aluWrite_eq (op : AluOp) (x : Reg) (src : Src) (s : State) :
    aluWrite op x src s = .next (s.afterResult x (alu op (s.readReg x) (src.value s) s.c).result
      (alu op (s.readReg x) (src.value s) s.c).zero (alu op (s.readReg x) (src.value s) s.c).carry) := rfl

theorem aluDiscard_eq (op : AluOp) (x : Reg) (src : Src) (s : State) :
    aluDiscard op x src s = .next (s.afterCompare
      (alu op (s.readReg x) (src.value s) s.c).zero (alu op (s.readReg x) (src.value s) s.c).carry) := rfl

/-! ## The ALU's output from its pre-mask result (R100) -/

/-- Carry in as an integer, as the rules write it. -/
theorem bitInt_eq_toNat (b : Bool) : bitInt b = b.toNat := by cases b <;> rfl

section
variable {op : AluOp} {a b : Byte} {cin : Bool}

/-- A pre-mask result that is a byte comes out as it is, and carries nothing out. -/
theorem alu_of_byte (hop : specialCarry op = false) {r : Byte} (hpre : preMask op a b cin = r.toNat) :
    alu op a b cin = ⟨r, decide (r = 0), false⟩ := by
  have hresult : (alu op a b cin).result = r := by
    rw [alu_result, hpre, maskResult_ofNat, BitVec.ofNat_toNat, BitVec.setWidth_eq]
  have hcarry : (alu op a b cin).carry = false := by
    have := r.isLt
    rw [alu_carry_generic hop, hpre, decide_eq_false_iff_not]
    omega
  rw [← hresult, ← beq_eq_decide, ← alu_zero, ← hcarry]

/-- A pre-mask result comes out modulo 256, and carries out when it lies outside a byte. -/
theorem alu_of_int (hop : specialCarry op = false) {t : Int} (hpre : preMask op a b cin = t) :
    alu op a b cin = ⟨BitVec.ofInt 8 t, decide (t % 256 = 0), decide (255 < t ∨ t < 0)⟩ := by
  have hresult : (alu op a b cin).result = BitVec.ofInt 8 t := congrArg maskResult hpre
  have hzero : (alu op a b cin).zero = decide (t % 256 = 0) := by
    rw [alu_zero, hresult, beq_eq_decide, decide_eq_decide, ← BitVec.toNat_inj, BitVec.toNat_ofInt,
      BitVec.ofNat_eq_ofNat, BitVec.toNat_zero]
    omega
  have hcarry := alu_carry_generic hop a b cin
  rw [hpre] at hcarry
  rw [← hresult, ← hzero, ← hcarry]

end

section
variable {op : AluOp} {x : Reg} {src : Src} {s : State}

theorem aluWrite_of_byte (hop : specialCarry op = false) {r : Byte}
    (hpre : preMask op (s.readReg x) (src.value s) s.c = r.toNat) :
    aluWrite op x src s = .next (s.afterResult x r (decide (r = 0)) false) := by
  rw [aluWrite_eq, alu_of_byte hop hpre]

/-- A sum carries out above 255. -/
theorem aluWrite_of_sum (hop : specialCarry op = false) {t : Int}
    (hpre : preMask op (s.readReg x) (src.value s) s.c = t) (ht : 0 ≤ t) :
    aluWrite op x src s = .next (s.afterArith x t (decide (t > 255))) := by
  have hcarry : (255 < t ∨ t < 0) ↔ t > 255 := by omega
  rw [aluWrite_eq, alu_of_int hop hpre, decide_eq_decide.2 hcarry, State.afterArith]

/-- A difference borrows below 0. -/
theorem aluWrite_of_difference (hop : specialCarry op = false) {t : Int}
    (hpre : preMask op (s.readReg x) (src.value s) s.c = t) (ht : t ≤ 255) :
    aluWrite op x src s = .next (s.afterArith x t (decide (t < 0))) := by
  have hcarry : (255 < t ∨ t < 0) ↔ t < 0 := by omega
  rw [aluWrite_eq, alu_of_int hop hpre, decide_eq_decide.2 hcarry, State.afterArith]

end

/-! ## What each operation does, for both operand forms -/

section
variable (x : Reg) (src : Src) (s : State)

theorem aluWrite_load : aluWrite .load x src s =
    .next (s.afterResult x (src.value s) (decide (src.value s = 0)) false) :=
  aluWrite_of_byte rfl rfl

theorem aluWrite_and : aluWrite .and x src s =
    .next (s.afterResult x (s.readReg x &&& src.value s) (decide (s.readReg x &&& src.value s = 0)) false) :=
  aluWrite_of_byte rfl rfl

theorem aluWrite_or : aluWrite .or x src s =
    .next (s.afterResult x (s.readReg x ||| src.value s) (decide (s.readReg x ||| src.value s = 0)) false) :=
  aluWrite_of_byte rfl rfl

theorem aluWrite_xor : aluWrite .xor x src s =
    .next (s.afterResult x (s.readReg x ^^^ src.value s) (decide (s.readReg x ^^^ src.value s = 0)) false) :=
  aluWrite_of_byte rfl rfl

theorem aluWrite_add : aluWrite .add x src s =
    .next (s.afterArith x ((s.readReg x).toNat + (src.value s).toNat)
      (decide (((s.readReg x).toNat + (src.value s).toNat : Int) > 255))) :=
  aluWrite_of_sum rfl rfl (by omega)

theorem aluWrite_addcy : aluWrite .addcy x src s =
    .next (s.afterArith x ((s.readReg x).toNat + (src.value s).toNat + s.c.toNat)
      (decide (((s.readReg x).toNat + (src.value s).toNat + s.c.toNat : Int) > 255))) :=
  aluWrite_of_sum rfl (by rw [← bitInt_eq_toNat]; rfl) (by omega)

theorem aluWrite_sub : aluWrite .sub x src s =
    .next (s.afterArith x ((s.readReg x).toNat - (src.value s).toNat)
      (decide (((s.readReg x).toNat - (src.value s).toNat : Int) < 0))) :=
  aluWrite_of_difference rfl rfl (by have := (s.readReg x).isLt; omega)

theorem aluWrite_subcy : aluWrite .subcy x src s =
    .next (s.afterArith x ((s.readReg x).toNat - (src.value s).toNat - s.c.toNat)
      (decide (((s.readReg x).toNat - (src.value s).toNat - s.c.toNat : Int) < 0))) :=
  aluWrite_of_difference rfl (by rw [← bitInt_eq_toNat]; rfl) (by have := (s.readReg x).isLt; omega)

/-- The difference is zero when the operands are equal, and borrows when the first is below the second. -/
theorem aluDiscard_compare : aluDiscard .compare x src s =
    .next (s.afterCompare (decide (s.readReg x = src.value s)) (decide ((s.readReg x).toNat < (src.value s).toNat))) := by
  have hzero : (alu .compare (s.readReg x) (src.value s) s.c).zero = decide (s.readReg x = src.value s) := by
    rw [alu_zero, alu_compare_result, beq_eq_decide, decide_eq_decide]
    exact sub_eq_zero
  have hcarry : (alu .compare (s.readReg x) (src.value s) s.c).carry =
      decide ((s.readReg x).toNat < (src.value s).toNat) := by
    have := (s.readReg x).isLt
    rw [alu_carry_generic rfl, decide_eq_decide, preMask]
    omega
  rw [aluDiscard_eq, hzero, hcarry]

theorem aluDiscard_test : aluDiscard .test x src s =
    .next (s.afterCompare (decide (s.readReg x &&& src.value s = 0)) false) := by
  rw [aluDiscard_eq, alu_of_byte rfl rfl]

end

/-! ## The statements of the single instructions -/

/-- Settles O10: the pre-mask result is the operand, a byte. -/
theorem loadCopiesOperandClearsCarry : Obligations.LoadCopiesOperandClearsCarry := fun x y k s =>
  ⟨decode_immWord rfl rfl, aluWrite_load x (.imm k) s, decode_regWord rfl rfl, aluWrite_load x (.reg y) s⟩

/-- Settles O11: a conjunction of bytes is a byte. -/
theorem andWritesConjunctionClearsCarry : Obligations.AndWritesConjunctionClearsCarry := fun x y k s =>
  ⟨decode_immWord rfl rfl, aluWrite_and x (.imm k) s, decode_regWord rfl rfl, aluWrite_and x (.reg y) s⟩

/-- Settles O12: a disjunction of bytes is a byte. -/
theorem orWritesDisjunctionClearsCarry : Obligations.OrWritesDisjunctionClearsCarry := fun x y k s =>
  ⟨decode_immWord rfl rfl, aluWrite_or x (.imm k) s, decode_regWord rfl rfl, aluWrite_or x (.reg y) s⟩

/-- Settles O13: an exclusive or of bytes is a byte. -/
theorem xorWritesDifferenceClearsCarry : Obligations.XorWritesDifferenceClearsCarry := fun x y k s =>
  ⟨decode_immWord rfl rfl, aluWrite_xor x (.imm k) s, decode_regWord rfl rfl, aluWrite_xor x (.reg y) s⟩

/-- Settles O14: a sum of two bytes is not negative, so the generic carry is its overflow. -/
theorem addWrapsAndCarriesOut : Obligations.AddWrapsAndCarriesOut := fun x y k s =>
  ⟨decode_immWord rfl rfl, aluWrite_add x (.imm k) s, decode_regWord rfl rfl, aluWrite_add x (.reg y) s⟩

/-- Settles O15: as O14, with Carry in. -/
theorem addcyAddsCarryIn : Obligations.AddcyAddsCarryIn := fun x y k s =>
  ⟨decode_immWord rfl rfl, aluWrite_addcy x (.imm k) s, decode_regWord rfl rfl, aluWrite_addcy x (.reg y) s⟩

/-- Settles O16: a difference of two bytes is at most 255, so the generic carry is its borrow. -/
theorem subWrapsAndBorrows : Obligations.SubWrapsAndBorrows := fun x y k s =>
  ⟨decode_immWord rfl rfl, aluWrite_sub x (.imm k) s, decode_regWord rfl rfl, aluWrite_sub x (.reg y) s⟩

/-- Settles O17: as O16, with Carry in. -/
theorem subcyTakesBorrowIn : Obligations.SubcyTakesBorrowIn := fun x y k s =>
  ⟨decode_immWord rfl rfl, aluWrite_subcy x (.imm k) s, decode_regWord rfl rfl, aluWrite_subcy x (.reg y) s⟩

/-- Settles O18: the flags are those of the discarded difference. -/
theorem compareOrdersUnsigned : Obligations.CompareOrdersUnsigned := fun x y k s =>
  ⟨decode_immWord rfl rfl, aluDiscard_compare x (.imm k) s, decode_regWord rfl rfl, aluDiscard_compare x (.reg y) s⟩

/-- Settles O19: the flags are those of the discarded conjunction. -/
theorem testSetsZeroFromConjunction : Obligations.TestSetsZeroFromConjunction := fun x y k s =>
  ⟨decode_immWord rfl rfl, aluDiscard_test x (.imm k) s, decode_regWord rfl rfl, aluDiscard_test x (.reg y) s⟩

/-! ## Two bytes at a time

Result and carry of one byte together lose nothing of the exact sum or difference; the low byte's carry goes into the
high byte's, and cancels. -/

theorem sum_eq_result_add_carry {t : Int} (lo : 0 ≤ t) (hi : t ≤ 511) :
    t = (BitVec.ofInt 8 t).toNat + 256 * (decide (t > 255)).toNat := by
  rw [BitVec.toNat_ofInt, Bool.toNat, Bool.cond_decide]
  split <;> omega

theorem difference_eq_result_sub_borrow {t : Int} (lo : -256 ≤ t) (hi : t ≤ 255) :
    t = (BitVec.ofInt 8 t).toNat - 256 * (decide (t < 0)).toNat := by
  rw [BitVec.toNat_ofInt, Bool.toNat, Bool.cond_decide]
  split <;> omega

section
variable {res : Result} {s : State} {x : Reg} {t : Int}

/-- The next state of an addition holds the exact sum `t` in `C:x[X]`, and every other register as before. -/
theorem next_holds_sum (h : res = .next (s.afterArith x t (decide (t > 255)))) (lo : 0 ≤ t) (hi : t ≤ 511) :
    ∃ u, res = .next u ∧ (∀ q, q ≠ x → u.readReg q = s.readReg q) ∧ t = (u.readReg x).toNat + 256 * u.c.toNat := by
  refine ⟨_, h, fun q hq => State.readReg_afterArith_of_ne hq, ?_⟩
  rw [State.readReg_afterArith_self, State.afterArith_c]
  exact sum_eq_result_add_carry lo hi

/-- The next state of a subtraction holds the exact difference `t` in `x[X]` less the borrow C, and every other register
as before. -/
theorem next_holds_difference (h : res = .next (s.afterArith x t (decide (t < 0)))) (lo : -256 ≤ t) (hi : t ≤ 255) :
    ∃ u, res = .next u ∧ (∀ q, q ≠ x → u.readReg q = s.readReg q) ∧ t = (u.readReg x).toNat - 256 * u.c.toNat := by
  refine ⟨_, h, fun q hq => State.readReg_afterArith_of_ne hq, ?_⟩
  rw [State.readReg_afterArith_self, State.afterArith_c]
  exact difference_eq_result_sub_borrow lo hi

end

theorem add_addcy_exact {x0 x1 y0 y1 : Reg} (s : State) (hx : x1 ≠ x0) (hy : y1 ≠ x0) :
    ∃ u v, exec (.addReg x0 y0) s = .next u ∧ exec (.addcyReg x1 y1) u = .next v ∧
      v.c.toNat * 0x10000 + (v.readReg x1).toNat * 0x100 + (v.readReg x0).toNat =
        ((s.readReg x1).toNat * 0x100 + (s.readReg x0).toNat) + ((s.readReg y1).toNat * 0x100 + (s.readReg y0).toNat) := by
  have := (s.readReg x0).isLt
  have := (s.readReg y0).isLt
  obtain ⟨u, hu, huOther, huSum⟩ := next_holds_sum (aluWrite_add x0 (.reg y0) s) (by omega)
    (by rw [Src.value_reg]; omega)
  have := (u.readReg x1).isLt
  have := (u.readReg y1).isLt
  have := u.c.toNat_le
  obtain ⟨v, hv, hvOther, hvSum⟩ := next_holds_sum (aluWrite_addcy x1 (.reg y1) u) (by omega)
    (by rw [Src.value_reg]; omega)
  refine ⟨u, v, hu, hv, ?_⟩
  rw [Src.value_reg] at huSum
  rw [Src.value_reg, huOther x1 hx, huOther y1 hy] at hvSum
  rw [hvOther x0 hx.symm]
  omega

theorem sub_subcy_exact {x0 x1 y0 y1 : Reg} (s : State) (hx : x1 ≠ x0) (hy : y1 ≠ x0) :
    ∃ u v, exec (.subReg x0 y0) s = .next u ∧ exec (.subcyReg x1 y1) u = .next v ∧
      ((v.readReg x1).toNat * 0x100 + (v.readReg x0).toNat) + ((s.readReg y1).toNat * 0x100 + (s.readReg y0).toNat) =
        v.c.toNat * 0x10000 + ((s.readReg x1).toNat * 0x100 + (s.readReg x0).toNat) := by
  have := (s.readReg x0).isLt
  have := (s.readReg y0).isLt
  obtain ⟨u, hu, huOther, huDifference⟩ := next_holds_difference (aluWrite_sub x0 (.reg y0) s)
    (by rw [Src.value_reg]; omega) (by omega)
  have := (u.readReg x1).isLt
  have := (u.readReg y1).isLt
  have := u.c.toNat_le
  obtain ⟨v, hv, hvOther, hvDifference⟩ := next_holds_difference (aluWrite_subcy x1 (.reg y1) u)
    (by rw [Src.value_reg]; omega) (by omega)
  refine ⟨u, v, hu, hv, ?_⟩
  rw [Src.value_reg] at huDifference
  rw [Src.value_reg, huOther x1 hx, huOther y1 hy] at hvDifference
  rw [hvOther x0 hx.symm]
  omega

/-- Settles O26: the low byte's carry is the high byte's Carry in, and the high byte's operands are still as before. -/
theorem carryChainsSixteenBitArithmetic : Obligations.CarryChainsSixteenBitArithmetic :=
  fun _ _ _ _ s hx hy => ⟨add_addcy_exact s hx hy, sub_subcy_exact s hx hy⟩

end Sys2Proof.Machine

/-! # Proofs about the rotates and shifts

Each of the ten instructions moves one bit in at one end of the register and puts the bit that leaves at the other end
into C; they differ in the fill bit only. So what a left move and a right move do is said once for every fill, read off
the pre-mask result of rule R100, and each instruction names its fill. Under repetition RL and RR rotate the register,
and SLA and SRA rotate Carry and the register as nine bits: a ring of `w` bits comes back after `w` rotations. -/

namespace Sys2Proof.Machine

/-! ## The words -/

/-- The number `0x20000 + sel + X * 0x100` decodes to the instruction with that word of format SH (R73, R130). -/
theorem decode_shiftWord {i : Instr} {base : Nat} {x : Reg} {sel : BitVec 4} (hi : encode i = formSH x sel)
    (hbase : base = 0x20000 + sel.toNat) : decode (BitVec.ofNat 18 (base + x.val * 0x100)) = .ok i := by
  rw [hbase, Nat.add_right_comm, ← formSH_toNat, BitVec.ofNat_toNat, BitVec.setWidth_eq, ← hi, decodeEncodeIsIdentity]

/-! ## The bits of a byte as arithmetic -/

theorem toNat_extract (a : Byte) (lo len : Nat) : (a.extractLsb' lo len).toNat = a.toNat / 2 ^ lo % 2 ^ len := by
  rw [BitVec.extractLsb'_toNat, Nat.shiftRight_eq_div_pow]

theorem extract_eq_zero_iff (a : Byte) (lo len : Nat) : a.extractLsb' lo len = 0 ↔ a.toNat / 2 ^ lo % 2 ^ len = 0 := by
  rw [← BitVec.toNat_inj, toNat_extract, BitVec.ofNat_eq_ofNat, BitVec.toNat_zero]

theorem getLsbD_eq_decide (a : Byte) (k : Nat) : a.getLsbD k = decide (a.toNat / 2 ^ k % 2 = 1) :=
  Nat.testBit_eq_decide_div_mod_eq

/-- A bit of a byte as the integer it is in a pre-mask result, and as a field of one bit. -/
theorem bitInt_getLsbD (a : Byte) (k : Nat) : bitInt (a.getLsbD k) = (a.extractLsb' k 1).toNat := by
  rw [bitInt_eq_toNat, toNat_extract, pow_one, ← Nat.toNat_testBit]
  rfl

theorem ofBool_getLsbD (a : Byte) (k : Nat) : BitVec.ofBool (a.getLsbD k) = a.extractLsb' k 1 := by
  rw [← BitVec.toNat_inj, BitVec.toNat_ofBool]
  exact_mod_cast (bitInt_eq_toNat _).symm.trans (bitInt_getLsbD a k)

theorem toNat_append_eq_add {m n : Nat} (u : BitVec m) (v : BitVec n) : (u ++ v).toNat = u.toNat * 2 ^ n + v.toNat := by
  rw [BitVec.toNat_append, ← Nat.shiftLeft_add_eq_or_of_lt v.isLt, Nat.shiftLeft_eq]

theorem append_eq_zero_iff {m n : Nat} (u : BitVec m) (v : BitVec n) : u ++ v = 0 ↔ u = 0 ∧ v = 0 := by
  simp [← BitVec.toNat_inj]

/-! ## Moving left and moving right, with any fill

Every rule states Z in its own words; what they mean is that the seven bits that stay and the fill are all zero. -/

theorem alu_eq_of_result {op : AluOp} {a b r : Byte} {cin zero carry : Bool} (hresult : (alu op a b cin).result = r)
    (hzero : decide (r = 0) = zero) (hcarry : (alu op a b cin).carry = carry) :
    alu op a b cin = ⟨r, zero, carry⟩ := by
  rw [← hzero, ← hresult, ← hcarry, ← beq_eq_decide, ← alu_zero]

theorem shiftWrite_of_alu {op : AluOp} {x : Reg} {s : State} {r : Byte} {zero carry : Bool}
    (h : alu op (s.readReg x) 0 s.c = ⟨r, zero, carry⟩) :
    shiftWrite op x s = .next (s.afterResult x r zero carry) := by
  rw [shiftWrite, h]
  rfl

section
variable {op : AluOp} {a b : Byte} {cin zero : Bool} {fill : BitVec 1}

/-- The fill enters at bit 0; the generic carry, bit 8 of the doubled byte, is its bit 7. -/
theorem alu_of_left (hop : specialCarry op = false) (hpre : preMask op a b cin = 2 * a.toNat + fill.toNat)
    (hzero : decide (a.extractLsb' 0 7 = 0 ∧ fill = 0) = zero) :
    alu op a b cin = ⟨a.extractLsb' 0 7 ++ fill, zero, a.getLsbD 7⟩ := by
  have ha := a.isLt
  have hfill := fill.isLt
  have hresult : (alu op a b cin).result = a.extractLsb' 0 7 ++ fill := by
    rw [alu_result, hpre, maskResult, ← BitVec.toNat_inj, BitVec.toNat_ofInt, toNat_append_eq_add, toNat_extract]
    omega
  have hcarry : (alu op a b cin).carry = a.getLsbD 7 := by
    rw [alu_carry_generic hop, hpre, getLsbD_eq_decide, decide_eq_decide]
    omega
  exact alu_eq_of_result hresult ((decide_eq_decide.2 (append_eq_zero_iff _ _)).trans hzero) hcarry

/-- The fill enters at bit 7; the special carry is the old bit 0. -/
theorem alu_of_right (hop : specialCarry op = true) (hpre : preMask op a b cin = a.toNat / 2 + 128 * fill.toNat)
    (hzero : decide (fill = 0 ∧ a.extractLsb' 1 7 = 0) = zero) :
    alu op a b cin = ⟨fill ++ a.extractLsb' 1 7, zero, a.getLsbD 0⟩ := by
  have ha := a.isLt
  have hfill := fill.isLt
  have hresult : (alu op a b cin).result = fill ++ a.extractLsb' 1 7 := by
    rw [alu_result, hpre, maskResult, ← BitVec.toNat_inj, BitVec.toNat_ofInt, toNat_append_eq_add, toNat_extract]
    omega
  exact alu_eq_of_result hresult ((decide_eq_decide.2 (append_eq_zero_iff _ _)).trans hzero)
    (alu_carry_special hop a b cin)

end

/-! ## The fill of each instruction -/

section
variable (a : Byte) (cin : Bool)

/-- Carry as the integer it is in a pre-mask result, and as a field of one bit. -/
theorem bitInt_eq_toNat_ofBool : bitInt cin = (BitVec.ofBool cin).toNat := by
  rw [bitInt_eq_toNat, BitVec.toNat_ofBool]

theorem ofBool_eq_zero_iff : BitVec.ofBool cin = 0 ↔ cin = false := BitVec.ofBool_eq_iff_eq (b' := false)

theorem low_and_bit7_eq_zero_iff : (a.extractLsb' 0 7 = 0 ∧ a.extractLsb' 7 1 = 0) ↔ a = 0 := by
  have ha := a.isLt
  rw [extract_eq_zero_iff, extract_eq_zero_iff, ← BitVec.toNat_inj, BitVec.ofNat_eq_ofNat, BitVec.toNat_zero]
  omega

/-- Bit 0 is one of the low seven bits. -/
theorem low_and_bit0_eq_zero_iff :
    (a.extractLsb' 0 7 = 0 ∧ a.extractLsb' 0 1 = 0) ↔ a.extractLsb' 0 7 = 0 := by
  rw [and_iff_left_iff_imp, extract_eq_zero_iff, extract_eq_zero_iff]
  omega

theorem bit0_and_high_eq_zero_iff : (a.extractLsb' 0 1 = 0 ∧ a.extractLsb' 1 7 = 0) ↔ a = 0 := by
  have ha := a.isLt
  rw [extract_eq_zero_iff, extract_eq_zero_iff, ← BitVec.toNat_inj, BitVec.ofNat_eq_ofNat, BitVec.toNat_zero]
  omega

theorem alu_rl : alu .rl a 0 cin = ⟨a.extractLsb' 0 7 ++ a.extractLsb' 7 1, decide (a = 0), a.getLsbD 7⟩ :=
  alu_of_left rfl (congrArg (2 * (a.toNat : Int) + ·) (bitInt_getLsbD a 7))
    (decide_eq_decide.2 (low_and_bit7_eq_zero_iff a))

theorem alu_sl0 : alu .sl0 a 0 cin = ⟨a.extractLsb' 0 7 ++ 0#1, decide (a.extractLsb' 0 7 = 0), a.getLsbD 7⟩ :=
  alu_of_left rfl (Int.add_zero _).symm (by simp)

theorem alu_sl1 : alu .sl1 a 0 cin = ⟨a.extractLsb' 0 7 ++ 1#1, false, a.getLsbD 7⟩ :=
  alu_of_left rfl rfl (by simp)

theorem alu_sla : alu .sla a 0 cin = ⟨a.extractLsb' 0 7 ++ BitVec.ofBool cin,
    decide (a.extractLsb' 0 7 = 0 ∧ cin = false), a.getLsbD 7⟩ :=
  alu_of_left rfl (congrArg (2 * (a.toNat : Int) + ·) (bitInt_eq_toNat_ofBool cin))
    (decide_eq_decide.2 (and_congr_right' (ofBool_eq_zero_iff cin)))

theorem alu_slx : alu .slx a 0 cin =
    ⟨a.extractLsb' 0 7 ++ a.extractLsb' 0 1, decide (a.extractLsb' 0 7 = 0), a.getLsbD 7⟩ :=
  alu_of_left rfl (congrArg (2 * (a.toNat : Int) + ·) (bitInt_getLsbD a 0))
    (decide_eq_decide.2 (low_and_bit0_eq_zero_iff a))

theorem alu_rr : alu .rr a 0 cin = ⟨a.extractLsb' 0 1 ++ a.extractLsb' 1 7, decide (a = 0), a.getLsbD 0⟩ :=
  alu_of_right rfl (congrArg ((a.toNat : Int) / 2 + 128 * ·) (bitInt_getLsbD a 0))
    (decide_eq_decide.2 (bit0_and_high_eq_zero_iff a))

theorem alu_sr0 : alu .sr0 a 0 cin = ⟨0#1 ++ a.extractLsb' 1 7, decide (a.extractLsb' 1 7 = 0), a.getLsbD 0⟩ :=
  alu_of_right rfl (Int.add_zero _).symm (by simp)

theorem alu_sr1 : alu .sr1 a 0 cin = ⟨1#1 ++ a.extractLsb' 1 7, false, a.getLsbD 0⟩ :=
  alu_of_right rfl rfl (by simp)

theorem alu_sra : alu .sra a 0 cin = ⟨BitVec.ofBool cin ++ a.extractLsb' 1 7,
    decide (a.extractLsb' 1 7 = 0 ∧ cin = false), a.getLsbD 0⟩ :=
  alu_of_right rfl (congrArg ((a.toNat : Int) / 2 + 128 * ·) (bitInt_eq_toNat_ofBool cin))
    (decide_eq_decide.2 (and_comm.trans (and_congr_right' (ofBool_eq_zero_iff cin))))

end

/-! ## Instructions that are others in disguise -/

/-- The ALU's output depends on the pre-mask result and on the carry rule only. -/
theorem alu_congr {op op' : AluOp} {a b b' : Byte} {cin : Bool} (hpre : preMask op a b cin = preMask op' a b' cin)
    (hop : specialCarry op = specialCarry op') : alu op a b cin = alu op' a b' cin := by
  rw [alu, alu, hpre, hop]

/-- Doubling is adding to itself. -/
theorem alu_sl0_eq_add (a : Byte) (cin : Bool) : alu .sl0 a 0 cin = alu .add a a cin :=
  alu_congr (Int.two_mul _) rfl

theorem alu_sla_eq_addcy (a : Byte) (cin : Bool) : alu .sla a 0 cin = alu .addcy a a cin :=
  alu_congr (congrArg (· + bitInt cin) (Int.two_mul _)) rfl

/-- Both fill with the old bit 0 (D8). -/
theorem alu_srx_eq_rr (a : Byte) (cin : Bool) : alu .srx a 0 cin = alu .rr a 0 cin :=
  alu_congr rfl rfl

theorem exec_srx_eq_rr (x : Reg) (s : State) : exec (.srx x) s = exec (.rr x) s :=
  (shiftWrite_of_alu (alu_srx_eq_rr _ _)).trans (shiftWrite_of_alu rfl).symm

/-- Settles O24: the two instructions of each pair have one pre-mask result and one carry rule. -/
theorem shiftsThatEqualOtherInstructions : Obligations.ShiftsThatEqualOtherInstructions := fun x s =>
  ⟨(shiftWrite_of_alu (alu_sl0_eq_add _ _)).trans (aluWrite_eq .add x (.reg x) s).symm,
    (shiftWrite_of_alu (alu_sla_eq_addcy _ _)).trans (aluWrite_eq .addcy x (.reg x) s).symm, exec_srx_eq_rr x s⟩

/-! ## The statements of the single instructions -/

/-- Settles O21: four left moves, each with its fill. -/
theorem leftShiftsFillBitZero : Obligations.LeftShiftsFillBitZero := fun _ _ =>
  ⟨decode_shiftWord rfl rfl, shiftWrite_of_alu (alu_sl0 _ _), decode_shiftWord rfl rfl, shiftWrite_of_alu (alu_sl1 _ _),
    decode_shiftWord rfl rfl, shiftWrite_of_alu (alu_sla _ _), decode_shiftWord rfl rfl, shiftWrite_of_alu (alu_slx _ _)⟩

/-- Settles O22: three right moves, each with its fill. -/
theorem rightShiftsFillBitSeven : Obligations.RightShiftsFillBitSeven := fun _ _ =>
  ⟨decode_shiftWord rfl rfl, shiftWrite_of_alu (alu_sr0 _ _), decode_shiftWord rfl rfl, shiftWrite_of_alu (alu_sr1 _ _),
    decode_shiftWord rfl rfl, shiftWrite_of_alu (alu_sra _ _)⟩

/-- Settles O23: SRX is RR, whose rule it then follows (D8). -/
theorem srxFillsWithOldBitZero : Obligations.SrxFillsWithOldBitZero := fun x s =>
  ⟨decode_shiftWord rfl rfl, (exec_srx_eq_rr x s).trans (shiftWrite_of_alu (alu_rr _ _))⟩

/-! ## Turning a ring of bits -/

section
variable {w : Nat}

/-- A ring of bits turned by one place to the left. -/
def turnLeft (v : BitVec w) : BitVec w := v.rotateLeft 1

/-- A ring of bits turned by one place to the right. -/
def turnRight (v : BitVec w) : BitVec w := v.rotateRight 1

theorem getLsbD_turnLeft (v : BitVec w) {k : Nat} (hk : k < w) : (turnLeft v).getLsbD ((k + 1) % w) = v.getLsbD k := by
  obtain rfl | hw : w = 1 ∨ 1 < w := by omega
  · simp [turnLeft, Nat.lt_one_iff.1 hk]
  rw [turnLeft, BitVec.getLsbD_rotateLeft, Nat.mod_eq_of_lt hw]
  obtain rfl | hin : k + 1 = w ∨ k + 1 < w := by omega
  · simp
  · simp [Nat.mod_eq_of_lt hin, hin]

theorem getLsbD_turnRight (v : BitVec w) {k : Nat} (hk : k < w) : (turnRight v).getLsbD k = v.getLsbD ((k + 1) % w) := by
  obtain rfl | hw : w = 1 ∨ 1 < w := by omega
  · simp [turnRight, Nat.lt_one_iff.1 hk]
  rw [turnRight, BitVec.getLsbD_rotateRight, Nat.mod_eq_of_lt hw]
  obtain rfl | hin : k + 1 = w ∨ k + 1 < w := by omega
  · simp
  · simp [Nat.mod_eq_of_lt hin, Nat.lt_sub_of_add_lt hin, Nat.add_comm 1 k]

theorem turnRight_turnLeft : Function.LeftInverse (turnRight (w := w)) turnLeft := fun v =>
  BitVec.eq_of_getLsbD_eq fun k hk => by rw [getLsbD_turnRight _ hk, getLsbD_turnLeft v hk]

theorem turnRight_of_turnLeft {u v : BitVec w} (h : turnLeft u = v) : turnRight v = u := by
  rw [← h, turnRight_turnLeft]

/-- The bit on the left end of a ring goes to the right end when it turns left. -/
theorem turnLeft_append (b : BitVec 1) (v : BitVec w) : turnLeft (b ++ v) = (v ++ b).cast (Nat.add_comm w 1) := by
  apply BitVec.eq_of_getLsbD_eq
  rintro (_ | k) hk
  · have hlast := getLsbD_turnLeft (b ++ v) (k := w) (by omega)
    rw [Nat.add_comm w 1, Nat.mod_self] at hlast
    rw [hlast, BitVec.getLsbD_cast, BitVec.getLsbD_append, BitVec.getLsbD_append, if_neg (by omega), if_pos one_pos,
      Nat.sub_self]
  · have hmoved := getLsbD_turnLeft (b ++ v) (k := k) (by omega)
    rw [Nat.mod_eq_of_lt hk] at hmoved
    rw [hmoved, BitVec.getLsbD_cast, BitVec.getLsbD_append, BitVec.getLsbD_append, if_pos (by omega), if_neg (by omega),
      Nat.add_sub_cancel]

/-- After `n` turns the bit from place `k` stands at place `k + n`, round the ring. -/
theorem getLsbD_turnLeft_iterate (v : BitVec w) {k : Nat} (hk : k < w) (n : Nat) :
    (turnLeft^[n] v).getLsbD ((k + n) % w) = v.getLsbD k := by
  induction n with
  | zero => rw [Nat.add_zero, Nat.mod_eq_of_lt hk, Function.iterate_zero_apply]
  | succ n ih =>
    rw [Function.iterate_succ_apply', ← ih, ← getLsbD_turnLeft (turnLeft^[n] v) (Nat.mod_lt (k + n) (by omega)),
      Nat.mod_add_mod, Nat.add_assoc]

theorem turnLeft_iterate_width (v : BitVec w) : turnLeft^[w] v = v := by
  apply BitVec.eq_of_getLsbD_eq
  intro k hk
  rw [← getLsbD_turnLeft_iterate v hk w, Nat.add_mod_right, Nat.mod_eq_of_lt hk]

theorem turnRight_iterate_width (v : BitVec w) : turnRight^[w] v = v := by
  conv_lhs => rw [← turnLeft_iterate_width v]
  exact turnRight_turnLeft.iterate w v

end

/-! ## Doing one instruction again and again -/

theorem execRepeat_succ_of_exec {i : Instr} {n : Nat} {s u : State} (h : exec i s = .next u) :
    execRepeat (n + 1) i s = execRepeat n i u := by
  rw [execRepeat, h]

/-- The last application after `n` others, where execution is defined by the first. -/
theorem execRepeat_succ_of_next {i : Instr} {n : Nat} {s t u : State} (hn : execRepeat n i s = .next t)
    (hlast : exec i t = .next u) : execRepeat (n + 1) i s = .next u := by
  induction n generalizing s with
  | zero =>
    cases hn
    rw [execRepeat_succ_of_exec hlast, execRepeat]
  | succ n ih =>
    cases hfirst : exec i s with
    | next v =>
      rw [execRepeat_succ_of_exec hfirst] at hn ⊢
      exact ih hn
    | fault f => rw [execRepeat, hfirst] at hn; cases hn
    | refused r => rw [execRepeat, hfirst] at hn; cases hn

/-- What one application makes of a part of the state, repeated applications make of it repeatedly; they write the
destination only. -/
theorem execRepeat_iterate {i : Instr} {x : Reg} {β : Type} {view : State → β} {f : β → β}
    (hi : destination i = some x) (hstep : ∀ s, ∃ t, exec i s = .next t ∧ view t = f (view s)) (n : Nat) (s : State) :
    ∃ t, execRepeat n i s = .next t ∧ view t = f^[n] (view s) ∧ ∀ q, q ≠ x → t.readReg q = s.readReg q := by
  induction n generalizing s with
  | zero => exact ⟨s, rfl, rfl, fun _ _ => rfl⟩
  | succ n ih =>
    obtain ⟨u, hu, huView⟩ := hstep s
    obtain ⟨t, ht, htView, htOther⟩ := ih u
    refine ⟨t, by rw [execRepeat_succ_of_exec hu, ht], by rw [htView, huView, Function.iterate_succ_apply], fun q hq => ?_⟩
    rw [htOther q hq]
    exact onlyTheDestinationRegisterChanges i s u hu q fun h => hq (by rw [hi] at h; exact (Option.some.inj h).symm)

theorem State.regs_eq_of_readReg {s t : State} {x : Reg} (hx : t.readReg x = s.readReg x)
    (hother : ∀ q, q ≠ x → t.readReg q = s.readReg q) : t.regs = s.regs := by
  apply Vector.ext
  intro k hk
  by_cases h : (⟨k, hk⟩ : Reg) = x
  · subst h; exact hx
  · exact hother ⟨k, hk⟩ h

@[simp] theorem State.readReg_afterResult_self (s : State) (x : Reg) (r : Byte) (zero carry : Bool) :
    (s.afterResult x r zero carry).readReg x = r :=
  (s.readReg_writeReg x x r).trans (if_pos rfl)

@[simp] theorem State.afterResult_c (s : State) (x : Reg) (r : Byte) (zero carry : Bool) :
    (s.afterResult x r zero carry).c = carry := rfl

/-! ## Eight rotates of the register -/

/-- When `n` turns bring a byte back, `n` applications that turn the register so leave all registers as before. -/
theorem execRepeat_restores_register {i : Instr} {x : Reg} {f : Byte → Byte} {n : Nat} (hi : destination i = some x)
    (hstep : ∀ s, ∃ t, exec i s = .next t ∧ t.readReg x = f (s.readReg x)) (hf : ∀ v, f^[n] v = v) (s : State) :
    ∃ t, execRepeat n i s = .next t ∧ t.regs = s.regs := by
  obtain ⟨t, ht, htReg, htOther⟩ := execRepeat_iterate (view := (·.readReg x)) hi hstep n s
  exact ⟨t, ht, State.regs_eq_of_readReg (htReg.trans (hf _)) htOther⟩

theorem turnLeft_byte (a : Byte) : turnLeft a = a.extractLsb' 0 7 ++ a.extractLsb' 7 1 := by
  conv_lhs => rw [← BitVec.extractLsb'_append_extractLsb' (w := 1) (len := 7) (x := a)]
  exact turnLeft_append _ _

theorem turnRight_byte (a : Byte) : turnRight a = a.extractLsb' 0 1 ++ a.extractLsb' 1 7 := by
  apply turnRight_of_turnLeft
  exact (turnLeft_append _ _).trans BitVec.extractLsb'_append_extractLsb'

section
variable (x : Reg) (s : State)

theorem exec_rl : exec (.rl x) s = .next (s.afterResult x ((s.readReg x).extractLsb' 0 7 ++ (s.readReg x).extractLsb' 7 1)
    (decide (s.readReg x = 0)) ((s.readReg x).getLsbD 7)) :=
  shiftWrite_of_alu (alu_rl _ _)

theorem exec_rr : exec (.rr x) s = .next (s.afterResult x ((s.readReg x).extractLsb' 0 1 ++ (s.readReg x).extractLsb' 1 7)
    (decide (s.readReg x = 0)) ((s.readReg x).getLsbD 0)) :=
  shiftWrite_of_alu (alu_rr _ _)

theorem exec_rl_readReg : ∃ t, exec (.rl x) s = .next t ∧ t.readReg x = turnLeft (s.readReg x) :=
  ⟨_, exec_rl x s, by rw [State.readReg_afterResult_self, turnLeft_byte]⟩

theorem exec_rr_readReg : ∃ t, exec (.rr x) s = .next t ∧ t.readReg x = turnRight (s.readReg x) :=
  ⟨_, exec_rr x s, by rw [State.readReg_afterResult_self, turnRight_byte]⟩

theorem execRepeat_rl_carry {n : Nat} (hn : n < 8) :
    ∃ t, execRepeat (n + 1) (.rl x) s = .next t ∧ t.c = (s.readReg x).getLsbD (7 - n) := by
  obtain ⟨t, ht, htReg, -⟩ := execRepeat_iterate (view := (·.readReg x)) rfl (exec_rl_readReg x) n s
  refine ⟨_, execRepeat_succ_of_next ht (exec_rl x t), ?_⟩
  have hplace : (7 - n + n) % 8 = 7 := by omega
  have hbit := getLsbD_turnLeft_iterate (s.readReg x) (by omega : 7 - n < 8) n
  rw [hplace] at hbit
  rw [State.afterResult_c, htReg, hbit]

theorem execRepeat_eight_rl : ∃ t, execRepeat 8 (.rl x) s = .next t ∧ t.regs = s.regs :=
  execRepeat_restores_register rfl (exec_rl_readReg x) turnLeft_iterate_width s

theorem execRepeat_eight_rr : ∃ t, execRepeat 8 (.rr x) s = .next t ∧ t.regs = s.regs :=
  execRepeat_restores_register rfl (exec_rr_readReg x) turnRight_iterate_width s

end

/-- Settles O20: each application of RL turns the register by one place, and puts into C the bit at place 7 before it. -/
theorem rotatesMoveOneBitAround : Obligations.RotatesMoveOneBitAround := fun x s =>
  ⟨decode_shiftWord rfl rfl, exec_rl x s, decode_shiftWord rfl rfl, exec_rr x s,
    fun _ hn => execRepeat_rl_carry x s hn, execRepeat_eight_rl x s⟩

/-! ## Nine shifts of Carry and the register -/

/-- Carry and a register as one ring of nine bits, Carry on the left (R135, R139). -/
def State.carryRing (x : Reg) (s : State) : BitVec 9 := BitVec.ofBool s.c ++ s.readReg x

theorem State.eq_of_carryRing_eq {x : Reg} {s t : State} (h : t.carryRing x = s.carryRing x) :
    t.c = s.c ∧ t.readReg x = s.readReg x := by
  have hreg : t.readReg x = s.readReg x := by
    simpa only [carryRing, BitVec.extractLsb'_append_eq_right] using congrArg (BitVec.extractLsb' 0 8) h
  rw [carryRing, carryRing, hreg, BitVec.append_left_inj, BitVec.ofBool_eq_iff_eq] at h
  exact ⟨h, hreg⟩

/-- When `n` turns bring nine bits back, `n` applications that turn the ring so leave Carry and all registers as before. -/
theorem execRepeat_restores_carryRing {i : Instr} {x : Reg} {f : BitVec 9 → BitVec 9} {n : Nat}
    (hi : destination i = some x) (hstep : ∀ s, ∃ t, exec i s = .next t ∧ t.carryRing x = f (s.carryRing x))
    (hf : ∀ v, f^[n] v = v) (s : State) : ∃ t, execRepeat n i s = .next t ∧ t.regs = s.regs ∧ t.c = s.c := by
  obtain ⟨t, ht, htRing, htOther⟩ := execRepeat_iterate hi hstep n s
  obtain ⟨hc, hreg⟩ := State.eq_of_carryRing_eq (htRing.trans (hf _))
  exact ⟨t, ht, State.regs_eq_of_readReg hreg htOther, hc⟩

theorem turnLeft_carry_byte (carry : BitVec 1) (a : Byte) :
    turnLeft (carry ++ a) = a.extractLsb' 7 1 ++ (a.extractLsb' 0 7 ++ carry) := by
  calc turnLeft (carry ++ a)
      = a ++ carry := turnLeft_append carry a
    _ = (a.extractLsb' 7 1 ++ a.extractLsb' 0 7) ++ carry :=
        congrArg (· ++ carry) (BitVec.extractLsb'_append_extractLsb' (w := 1) (len := 7)).symm
    _ = a.extractLsb' 7 1 ++ (a.extractLsb' 0 7 ++ carry) := BitVec.append_assoc

theorem turnRight_carry_byte (carry : BitVec 1) (a : Byte) :
    turnRight (carry ++ a) = a.extractLsb' 0 1 ++ (carry ++ a.extractLsb' 1 7) := by
  apply turnRight_of_turnLeft
  calc turnLeft (a.extractLsb' 0 1 ++ (carry ++ a.extractLsb' 1 7))
      = (carry ++ a.extractLsb' 1 7) ++ a.extractLsb' 0 1 := turnLeft_append _ _
    _ = carry ++ (a.extractLsb' 1 7 ++ a.extractLsb' 0 1) := BitVec.append_assoc
    _ = carry ++ a := congrArg (carry ++ ·) (BitVec.extractLsb'_append_extractLsb' (w := 7) (len := 1))

section
variable (x : Reg) (s : State)

theorem exec_sla_carryRing : ∃ t, exec (.sla x) s = .next t ∧ t.carryRing x = turnLeft (s.carryRing x) := by
  refine ⟨_, shiftWrite_of_alu (alu_sla _ _), ?_⟩
  rw [State.carryRing, State.carryRing, State.readReg_afterResult_self, State.afterResult_c, ofBool_getLsbD]
  exact (turnLeft_carry_byte _ _).symm

theorem exec_sra_carryRing : ∃ t, exec (.sra x) s = .next t ∧ t.carryRing x = turnRight (s.carryRing x) := by
  refine ⟨_, shiftWrite_of_alu (alu_sra _ _), ?_⟩
  rw [State.carryRing, State.carryRing, State.readReg_afterResult_self, State.afterResult_c, ofBool_getLsbD]
  exact (turnRight_carry_byte _ _).symm

theorem execRepeat_nine_sla : ∃ t, execRepeat 9 (.sla x) s = .next t ∧ t.regs = s.regs ∧ t.c = s.c :=
  execRepeat_restores_carryRing rfl (exec_sla_carryRing x) turnLeft_iterate_width s

theorem execRepeat_nine_sra : ∃ t, execRepeat 9 (.sra x) s = .next t ∧ t.regs = s.regs ∧ t.c = s.c :=
  execRepeat_restores_carryRing rfl (exec_sra_carryRing x) turnRight_iterate_width s

end

/-- Settles O25: a ring of nine bits comes back after nine turns, and one of eight after eight. -/
theorem nineShiftsThroughCarryRestore : Obligations.NineShiftsThroughCarryRestore := fun x s =>
  ⟨execRepeat_nine_sla x s, execRepeat_nine_sra x s, execRepeat_eight_rr x s⟩

end Sys2Proof.Machine

/-! # Proofs about control flow

A control-flow instruction is a guard and a branch, and its words differ from those of its kind in the nibble `w[11:8]`
only. So what a branch does and which words carry it are said once, and a statement names its group and its branch. For
the return-address ring a run is read in two ways: as the distance sp has moved, and as the list of the entries pushed
most recently. -/

namespace Sys2Proof.Machine

/-! ## The words

A word of a group is `formBC` of it whether or not `w[11:8]` is examined (R73, R89). -/

theorem ofNat_eq_formBC (g : BitVec 6) (f : BitVec 4) (t : Byte) :
    BitVec.ofNat 18 (g.toNat * 0x1000 + f.toNat * 0x100 + t.toNat) = formBC g f t := by
  rw [← formBC_toNat, BitVec.ofNat_toNat, BitVec.setWidth_eq]

/-- An unconditional jump or call, whatever its nibble `w[11:8]`. -/
theorem decode_branchWord {g : BitVec 6} {base : Nat} {row : Byte → Instr}
    (hrow : ∀ w, fieldGroup w = g → decode w = .ok (row (fieldImm8 w))) (hbase : base = g.toNat * 0x1000)
    (n : BitVec 4) (t : Byte) : decode (BitVec.ofNat 18 (base + n.toNat * 0x100 + t.toNat)) = .ok (row t) := by
  rw [hbase, ofNat_eq_formBC, hrow _ (fieldGroup_formBC g n t), fieldImm8_formBC]

/-- Group 0x2A, whatever its low twelve bits. -/
theorem decode_retWord (n : BitVec 12) : decode (BitVec.ofNat 18 (0x2A000 + n.toNat)) = .ok .ret := by
  have hgroup : fieldGroup (BitVec.ofNat 18 (0x2A000 + n.toNat)) = 0x2A#6 := by
    apply BitVec.eq_of_toNat_eq
    rw [fieldGroup_toNat, BitVec.toNat_ofNat]
    simp only [BitVec.toNat_ofNat]
    omega
  rw [decode, hgroup]
  rfl

theorem decode_formBC_ret (f : BitVec 4) (t : Byte) :
    decode (formBC 0x2B f t) = decodeCond f .retZ .retNZ .retC .retNC := by
  rw [decode, fieldGroup_formBC, fieldCond_formBC]
  rfl

theorem decodeCond_eq_ite (f : BitVec 4) (iZ iNZ iC iNC : Instr) :
    decodeCond f iZ iNZ iC iNC = if f = 0x0 then .ok iZ else if f = 0x4 then .ok iNZ
      else if f = 0x8 then .ok iC else if f = 0xC then .ok iNC else .error .condition := by
  unfold decodeCond
  split
  case h_5 hZ hNZ hC hNC =>
    exact ((if_neg hZ).trans ((if_neg hNZ).trans ((if_neg hC).trans (if_neg hNC)))).symm
  all_goals rfl

theorem decodeCond_unlisted {f : BitVec 4} (hf : f ∉ [0x0, 0x4, 0x8, 0xC]) (iZ iNZ iC iNC : Instr) :
    decodeCond f iZ iNZ iC iNC = .error .condition := by
  simp only [List.mem_cons, List.not_mem_nil, or_false, not_or] at hf
  obtain ⟨hZ, hNZ, hC, hNC⟩ := hf
  rw [decodeCond_eq_ite, if_neg hZ, if_neg hNZ, if_neg hC, if_neg hNC]

section
variable {g : BitVec 6} {base : Nat} {f : BitVec 4} {t : Byte} {iZ iNZ iC iNC : Instr}

theorem decode_condWord (hrow : decode (formBC g f t) = decodeCond f iZ iNZ iC iNC) (hbase : base = g.toNat * 0x1000) :
    decode (BitVec.ofNat 18 (base + f.toNat * 0x100 + t.toNat)) =
      if f = 0x0 then .ok iZ else if f = 0x4 then .ok iNZ
      else if f = 0x8 then .ok iC else if f = 0xC then .ok iNC else .error .condition := by
  rw [hbase, ofNat_eq_formBC, hrow, decodeCond_eq_ite]

/-- A condition field that is not listed faults at dispatch (R77, R88). -/
theorem step_condWord_unlisted (hrow : decode (formBC g f t) = decodeCond f iZ iNZ iC iNC)
    (hbase : base = g.toNat * 0x1000) {s : State}
    (hfetch : s.fetch = BitVec.ofNat 18 (base + f.toNat * 0x100 + t.toNat)) (hf : f ∉ [0x0, 0x4, 0x8, 0xC]) :
    step s = .fault (.illegalInstruction .condition s.fetch) :=
  step_of_illegal (by rw [hfetch, hbase, ofNat_eq_formBC, hrow, decodeCond_unlisted hf])

end

/-! ## The meanings -/

/-- The state after a taken transfer, as the rules' pseudocode writes it. -/
def Branch.after (b : Branch) (s : State) : State :=
  match b with
  | .jump d => s.afterJump d
  | .call d => s.afterCall d
  | .ret => s.afterReturn

theorem targetAddr_eq_ofNat (t : Byte) : targetAddr t = BitVec.ofNat 10 t.toNat := (BitVec.ofNat_toNat 10 t).symm

theorem ofNat_toNat_succ (a : Addr) : BitVec.ofNat 10 (a.toNat + 1) = a + 1 := by
  rw [BitVec.ofNat_add, BitVec.ofNat_toNat, BitVec.setWidth_eq]
  rfl

theorem State.advance_eq_afterAdvance (s : State) : s.advance = s.afterAdvance :=
  congrArg s.setPc (ofNat_toNat_succ s.pc).symm

/-- A branch goes where its rule says (R152, R154, R156). -/
theorem Branch.target_eq_after (b : Branch) (s : State) : b.target s = b.after s := by
  cases b with
  | jump d => exact congrArg s.setPc (targetAddr_eq_ofNat d)
  | call d => exact congrArg (s.push s.pc).setPc (targetAddr_eq_ofNat d)
  | ret => exact congrArg s.pop.setPc (ofNat_toNat_succ s.top).symm

section
variable {i iZ iNZ iC iNC : Instr} (b : Branch) (s : State)

theorem exec_unconditional (hi : shapeOf i = .transfer none b) : exec i s = .next (b.after s) := by
  rw [exec_eq_run, hi, ← b.target_eq_after]
  rfl

theorem exec_guarded {cc : Cond} (hi : shapeOf i = .transfer (some cc) b) :
    exec i s = .next (if condHolds cc s = true then b.after s else s.afterAdvance) := by
  rw [exec_eq_run, hi, ← b.target_eq_after, ← s.advance_eq_afterAdvance, Shape.run, guardHolds,
    apply_ite Host.Outcome.next]

/-- The four conditions on one branch, each read on its flag (R151). -/
theorem exec_conditional (hZ : shapeOf iZ = .transfer (some .z) b) (hNZ : shapeOf iNZ = .transfer (some .nz) b)
    (hC : shapeOf iC = .transfer (some .c) b) (hNC : shapeOf iNC = .transfer (some .nc) b) :
    exec iZ s = .next (if s.z = true then b.after s else s.afterAdvance) ∧
    exec iNZ s = .next (if s.z = false then b.after s else s.afterAdvance) ∧
    exec iC s = .next (if s.c = true then b.after s else s.afterAdvance) ∧
    exec iNC s = .next (if s.c = false then b.after s else s.afterAdvance) := by
  refine ⟨exec_guarded b s hZ, (exec_guarded b s hNZ).trans ?_, exec_guarded b s hC, (exec_guarded b s hNC).trans ?_⟩
  all_goals simp [condHolds]

end

/-- Settles O27: the nibble `w[11:8]` is not looked at. -/
theorem jumpSetsThePc : Obligations.JumpSetsThePc := fun n t s =>
  ⟨decode_branchWord (g := 0x34) (fun w hg => by rw [decode, hg]; rfl) rfl n t, exec_unconditional (.jump t) s rfl⟩

/-- Settles O28: the branch of the four words is a jump. -/
theorem conditionalJumpFollowsItsFlag : Obligations.ConditionalJumpFollowsItsFlag := fun f t s =>
  ⟨decode_condWord (decode_formBC_jump f t) rfl, step_condWord_unlisted (decode_formBC_jump f t) rfl,
    exec_conditional (.jump t) s rfl rfl rfl rfl⟩

/-- Settles O30: the branch of the four words is a call. -/
theorem conditionalCallPushesWhenTaken : Obligations.ConditionalCallPushesWhenTaken := fun f t s =>
  ⟨decode_condWord (decode_formBC_call f t) rfl, step_condWord_unlisted (decode_formBC_call f t) rfl,
    exec_conditional (.call t) s rfl rfl rfl rfl⟩

/-- Settles O32: the branch of the four words is a return. -/
theorem conditionalReturnPopsWhenTaken : Obligations.ConditionalReturnPopsWhenTaken := fun f t s =>
  ⟨decode_condWord (decode_formBC_ret f t) rfl, step_condWord_unlisted (decode_formBC_ret f t) rfl,
    exec_conditional .ret s rfl rfl rfl rfl⟩

/-- Settles O56: both flags are clear in the reset state. -/
theorem conditionsAfterReset : Obligations.ConditionsAfterReset := fun t =>
  ⟨exec_guarded (cc := .nz) (.jump t) State.reset rfl, exec_guarded (cc := .nc) (.jump t) State.reset rfl,
    exec_guarded (cc := .z) (.jump t) State.reset rfl, exec_guarded (cc := .c) (.jump t) State.reset rfl⟩

/-! ## One call and one return -/

theorem State.afterCall_stack_sp (s : State) (t : Byte) : (s.afterCall t).stack[(s.afterCall t).sp] = s.pc :=
  s.top_push s.pc

theorem State.afterCall_stack_of_ne {s : State} {t : Byte} {k : Fin 31} (hk : k ≠ (s.afterCall t).sp) :
    (s.afterCall t).stack[k] = s.stack[k] :=
  ((Branch.call t).target_stack s k).resolve_left fun h => hk h.2

/-- Settles O29: the slot the new sp names is the only one written. -/
theorem callPushesItsOwnAddress : Obligations.CallPushesItsOwnAddress := by
  intro n t s
  have htarget : (BitVec.ofNat 10 t.toNat).toNat = t.toNat := by
    rw [BitVec.toNat_ofNat]
    omega
  exact ⟨decode_branchWord (g := 0x30) (fun w hg => by rw [decode, hg]; rfl) rfl n t, s.afterCall t,
    exec_unconditional (.call t) s rfl, rfl, rfl, s.afterCall_stack_sp t, fun _ hk => State.afterCall_stack_of_ne hk,
    htarget⟩

/-- Settles O31: the low twelve bits are not looked at, and ten bits wrap at 1024. -/
theorem returnResumesAfterTheCall : Obligations.ReturnResumesAfterTheCall := fun n s =>
  ⟨decode_retWord n, s.afterReturn, exec_unconditional .ret s rfl, rfl, BitVec.toNat_ofNat _ _, rfl, rfl⟩

/-- A return undoes a call but for pc, which has moved on, and the slot, which keeps the address (R157). -/
theorem State.afterReturn_afterCall (s : State) (t : Byte) :
    (s.afterCall t).afterReturn = { s with pc := s.pc + 1, stack := (s.afterCall t).stack } := by
  have hpc : BitVec.ofNat 10 ((s.afterCall t).stack[(s.afterCall t).sp].toNat + 1) = s.pc + 1 := by
    rw [s.afterCall_stack_sp t, ofNat_toNat_succ]
  have hsp : (s.afterCall t).afterReturn.sp = s.sp := s.pop_push_sp s.pc
  rw [← hpc, ← hsp]
  rfl

theorem runLoop_succ_of_next {n : Nat} {s t : State} (h : step s = .next t) : runLoop (n + 1) s = runLoop n t := by
  rw [runLoop, stepCall_of_next h]

/-- Settles O33: the second step fetches at the target, in the same program. -/
theorem callThenReturnResumesAfterCall : Obligations.CallThenReturnResumesAfterCall := by
  intro s t hcall hret
  have hfirst : step s = .next (s.afterCall t) := (step_of_decode hcall).trans (exec_unconditional (.call t) s rfl)
  have hfetch : (s.afterCall t).fetch = s.wordAt (BitVec.ofNat 10 t.toNat) := State.wordAt_congr rfl rfl _
  have hsecond : step (s.afterCall t) = .next (s.afterCall t).afterReturn :=
    (step_of_decode (by rw [hfetch, hret])).trans (exec_unconditional .ret _ rfl)
  rw [runLoop_succ_of_next hfirst, runLoop_succ_of_next hsecond, s.afterReturn_afterCall, runLoop]

/-! ## Nested calls -/

/-- The ring's entry pushed `k` calls before the last one, for `k` below 31. -/
def State.entry (s : State) (k : Nat) : Addr := s.stack[s.sp - Fin.ofNat 31 k]

/-- The `n` entries pushed most recently, the last one first. -/
def State.recent (s : State) (n : Nat) : List Addr := (List.range n).map s.entry

@[simp] theorem State.entry_zero (s : State) : s.entry 0 = s.top := by
  simp [State.entry, State.top]

theorem State.entry_pop (s : State) (k : Nat) : s.pop.entry k = s.entry (k + 1) := by
  have hslot : s.sp + 30 - Fin.ofNat 31 k = s.sp - Fin.ofNat 31 (k + 1) := by
    simp only [Fin.ext_iff, Fin.sub_def, Fin.add_def, Fin.val_ofNat]
    omega
  simp only [State.entry, State.pop_stack, State.pop_sp, hslot]

/-- A push moves every entry back by one, and overwrites the oldest of the 31 (R155). -/
theorem State.entry_push {k : Nat} (hk : k < 30) (s : State) (a : Addr) : (s.push a).entry (k + 1) = s.entry k := by
  have hslot : s.sp + 1 - Fin.ofNat 31 (k + 1) = s.sp - Fin.ofNat 31 k := by
    simp only [Fin.ext_iff, Fin.sub_def, Fin.add_def, Fin.val_ofNat]
    omega
  have hkept : ((s.sp + 1 : Fin 31) : Nat) ≠ (s.sp - Fin.ofNat 31 k : Fin 31) := by
    simp only [Fin.sub_def, Fin.add_def, Fin.val_ofNat]
    omega
  simp only [State.entry, State.push_stack, State.push_sp, hslot]
  exact Vector.getElem_set_ne _ _ hkept

/-- Two states whose entries are the same, one place apart. -/
theorem State.recent_succ {s t : State} {n : Nat} (h : ∀ k < n, s.entry (k + 1) = t.entry k) :
    s.recent (n + 1) = s.top :: t.recent n := by
  rw [State.recent, List.range_succ_eq_map, List.map_cons, List.map_map, State.entry_zero]
  exact congrArg (s.top :: ·) (List.map_congr_left fun k hk => h k (List.mem_range.1 hk))

theorem State.recent_succ_eq_pop (s : State) (n : Nat) : s.recent (n + 1) = s.top :: s.pop.recent n :=
  State.recent_succ fun k _ => (s.entry_pop k).symm

theorem State.recent_push {n : Nat} (hn : n ≤ 30) (s : State) (a : Addr) :
    (s.push a).recent (n + 1) = a :: s.recent n := by
  rw [State.recent_succ fun k hk => s.entry_push (Nat.lt_of_lt_of_le hk hn) a, State.top_push]

/-- Returns read the ring from the last entry back. -/
theorem returnAddrs_eq_recent (n : Nat) (s : State) : returnAddrs n s = (s.recent n).map (· + 1) := by
  induction n generalizing s with
  | zero => rfl
  | succ n ih =>
    have hret : exec .ret s = .next (s.pop.setPc (s.top + 1)) := rfl
    rw [returnAddrs, hret, State.recent_succ_eq_pop, List.map_cons]
    exact congrArg ((s.top + 1) :: ·) (ih _)

/-- Each call pushes its site in front of the entries already there, as long as the ring holds them all. -/
theorem callFrom_next (t : Byte) (sites : List Addr) (s : State) :
    ∃ u, callFrom t sites s = .next u ∧ u.sp.val = (s.sp.val + sites.length) % 31 ∧
      ∀ n, n + sites.length ≤ 31 → u.recent (n + sites.length) = sites.reverse ++ s.recent n := by
  induction sites generalizing s with
  | nil => exact ⟨s, rfl, (Nat.mod_eq_of_lt s.sp.isLt).symm, fun _ _ => rfl⟩
  | cons a rest ih =>
    obtain ⟨u, hu, hsp, hrecent⟩ := ih (((s.setPc a).push a).setPc (targetAddr t))
    refine ⟨u, hu, ?_, fun n hn => ?_⟩
    · simp only [hsp, List.length_cons, State.setPc_sp, State.push_sp, Fin.val_add]
      omega
    · rw [List.length_cons] at hn
      calc u.recent (n + (a :: rest).length)
          = u.recent (n + 1 + rest.length) := by rw [List.length_cons, Nat.add_right_comm, Nat.add_assoc]
        _ = rest.reverse ++ ((s.setPc a).push a).recent (n + 1) := hrecent (n + 1) (by omega)
        _ = rest.reverse ++ a :: s.recent n := congrArg _ ((s.setPc a).recent_push (by omega) a)
        _ = (a :: rest).reverse ++ s.recent n := by rw [List.reverse_cons, List.append_assoc, List.singleton_append]

/-- Settles O34: the entries that the returns read are the sites, last first, and 31 steps go once around the ring. -/
theorem nestedCallsReturnInReverseOrder : Obligations.NestedCallsReturnInReverseOrder := by
  intro t sites s hlength
  obtain ⟨u, hu, hsp, hrecent⟩ := callFrom_next t sites s
  have hsites : u.recent sites.length = sites.reverse := by
    simpa [State.recent] using hrecent 0 (by omega)
  refine ⟨u, hu, by rw [returnAddrs_eq_recent, hsites], fun hfull => Fin.ext ?_⟩
  rw [hsp, hfull]
  omega

/-! ## The stack pointer over a run -/

/-- How the next step moves the number of live entries; a word that is no instruction does not move it. -/
def ringStep (s : State) : Int := (nextInstr s).elim 0 fun i => ringMove (takenTransfer i s)

theorem netCalls_succ (n : Nat) (s : State) : netCalls (n + 1) s = ringStep s + netCalls n (stepCall s).1 := by
  rw [netCalls, ringStep]
  cases nextInstr s <;> rfl

theorem ringStep_of_decode {s : State} {i : Instr} (h : decode s.fetch = .ok i) :
    ringStep s = ringMove (takenTransfer i s) := by
  rw [ringStep, nextInstr, h]
  rfl

theorem ringStep_of_illegal {s : State} {cause : IllegalCause} (h : decode s.fetch = .error cause) : ringStep s = 0 := by
  rw [ringStep, nextInstr, h]
  rfl

/-- Only an instruction that takes no transfer can stop. -/
theorem exec_next_of_taken {i : Instr} {s : State} {k : Transfer} (h : takenTransfer i s = some k) :
    ∃ t, exec i s = .next t := by
  rw [takenTransfer_eq] at h
  rw [exec_eq_run]
  cases hi : shapeOf i with
  | transfer guard b => exact ⟨_, (apply_ite Host.Outcome.next _ _ _).symm⟩
  | _ => rw [hi] at h; cases h

/-- A step that stops, for an illegal word or a fault of the instruction, has made no call and no return. -/
theorem ringStep_of_stop {s : State} (h : ∀ t, step s ≠ .next t) : ringStep s = 0 := by
  cases hd : decode s.fetch with
  | error cause => exact ringStep_of_illegal hd
  | ok i =>
    rw [ringStep_of_decode hd]
    cases htaken : takenTransfer i s with
    | none => rfl
    | some k =>
      obtain ⟨t, ht⟩ := exec_next_of_taken htaken
      exact absurd ((step_of_decode hd).trans ht) (h t)

theorem stepCall_sp (s : State) : ((stepCall s).1.sp.val : Int) = (s.sp.val + ringStep s) % 31 := by
  rcases stepCall_cases s with ⟨t, hnext, hcall⟩ | ⟨why, hcall⟩
  · obtain ⟨i, hi, hexec⟩ := step_next hnext
    rw [hcall, ringStep_of_decode hi]
    exact (onlyTakenCallsAndReturnsMoveTheRing i s t hexec).1
  · have hstop : ∀ t, step s ≠ .next t := fun t ht => by cases (stepCall_of_next ht).symm.trans hcall
    rw [hcall, ringStep_of_stop hstop]
    exact sp_stays s.sp

/-- A stop keeps the state (R195), so it changes nothing to go on calling the step after it. -/
theorem runLoop_succ_state (n : Nat) (s : State) : (runLoop (n + 1) s).1 = (runLoop n (stepCall s).1).1 := by
  rcases stepCall_cases s with ⟨t, -, hcall⟩ | ⟨why, hcall⟩
  · rw [runLoop, hcall]
  · have hstays : (runLoop n s).1 = s := by cases n <;> simp only [runLoop, hcall]
    rw [runLoop, hcall, hstays]

/-- Settles O35, by induction on the number of steps: each step moves sp by what it adds to the count. -/
theorem stackPointerCountsCallsModuloThirtyOne : Obligations.StackPointerCountsCallsModuloThirtyOne := by
  intro n
  induction n with
  | zero => exact fun s => sp_stays s.sp
  | succ n ih =>
    intro s
    rw [runLoop_succ_state, ih, stepCall_sp, netCalls_succ, Int.emod_add_emod, Int.add_assoc]

end Sys2Proof.Machine

/-! # Proofs about FETCH, STORE, INPUT and OUTPUT

The imm and the reg form of each mean the same in the value of their operand (R170), so what an operation does is said
once, for every `Src`, and a statement is its two words and its two meanings. That nothing but a scratchpad address above
63 stops an instruction is again read off the shape. -/

namespace Sys2Proof.Machine

/-! ## What each operation does, for both operand forms -/

/-- A cell reads back what was written to it, and a write to one cell leaves the others alone. -/
theorem State.readCell_writeCell (s : State) (a b : Nat) (v : Byte) :
    (s.writeCell a v).readCell b = if b = a then v else s.readCell b :=
  Memory.read_write s.scratch a b v

/-- The answer that waits is the one a port read takes (log 1). -/
theorem State.portAnswer_of_waiting {s : State} {a : Byte} {rest : List Byte} (h : s.portIn = a :: rest) (p : Byte) :
    s.portAnswer p = a := by
  simp only [State.portAnswer, h]

section
variable (x : Reg) (src : Src) (s : State)

theorem inputPort_eq : inputPort x src s = .next { s with
    regs := s.regs.set x (s.portAnswer (src.value s)), pc := s.pc + 1, portIn := s.portIn.tail
    portLog := s.portLog ++ [.read (src.value s) (s.portAnswer (src.value s))] } := rfl

/-- One byte is the answer, the new register value and the value of the event (R33). -/
theorem inputPort_takes_answer : ∃ v, (∀ a rest, s.portIn = a :: rest → v = a) ∧ inputPort x src s = .next { s with
    regs := s.regs.set x v, pc := s.pc + 1, portIn := s.portIn.tail
    portLog := s.portLog ++ [.read (src.value s) v] } :=
  ⟨s.portAnswer (src.value s), fun _ _ hwaiting => State.portAnswer_of_waiting hwaiting _, inputPort_eq x src s⟩

theorem outputPort_eq : outputPort x src s = .next { s with
    pc := s.pc + 1, portLog := s.portLog ++ [.write (src.value s) (s.readReg x)] } := rfl

variable {s}

theorem fetchCell_of_le (h : (src.value s).toNat ≤ 63) : fetchCell x src s = .next { s with
    regs := s.regs.set x (s.readCell (src.value s).toNat), pc := s.pc + 1 } :=
  fetchCell_ok (Nat.lt_succ_of_le h)

/-- What a FETCH leaves in its register is the cell it addressed. -/
theorem fetchCell_reads (h : (src.value s).toNat ≤ 63) :
    ∃ t, fetchCell x src s = .next t ∧ t.readReg x = s.readCell (src.value s).toNat :=
  ⟨_, fetchCell_ok (Nat.lt_succ_of_le h), (s.readReg_writeReg x x _).trans (if_pos rfl)⟩

/-- A STORE in range: its one cell and pc, and everything else as before. -/
theorem storeCell_of_le (h : (src.value s).toNat ≤ 63) : ∃ u, storeCell x src s = .next u ∧
    (∀ b, u.readCell b = if b = (src.value s).toNat then s.readReg x else s.readCell b) ∧
    u.pc = s.pc + 1 ∧ u.regs = s.regs ∧ u.z = s.z ∧ u.c = s.c ∧ SameRing s u ∧ SameOutside s u :=
  ⟨_, storeCell_ok (Nat.lt_succ_of_le h), fun b => s.readCell_writeCell _ b _,
    rfl, rfl, rfl, rfl, ⟨rfl, rfl⟩, rfl, rfl, rfl, rfl⟩

end

/-! ## The statements of the four instructions -/

/-- Settles O36: the address is checked before anything is written. -/
theorem fetchReadsOneCellOrFaults : Obligations.FetchReadsOneCellOrFaults := fun x y a s =>
  ⟨decode_immWord rfl rfl, fetchCell_of_le x (.imm a), fetchCell_fault (src := .imm a),
    decode_regWord rfl rfl, fetchCell_of_le x (.reg y), fetchCell_fault (src := .reg y)⟩

/-- Settles O37: the cell that was written is the one the FETCH reads. -/
theorem storeWritesOneCellOrFaults : Obligations.StoreWritesOneCellOrFaults := by
  intro x y a s
  refine ⟨decode_immWord rfl rfl, fun ha => ?_, storeCell_fault (src := .imm a),
    decode_regWord rfl rfl, storeCell_of_le x (.reg y), storeCell_fault (src := .reg y)⟩
  obtain ⟨u, hstore, hcells, hpc, hregs, hz, hc, hring, houtside⟩ := storeCell_of_le x (.imm a) ha
  obtain ⟨v, hfetch, hread⟩ := fetchCell_reads y (.imm a) (s := u) ha
  have hstored : u.readCell a.toNat = s.readReg x := (hcells a.toNat).trans (if_pos rfl)
  exact ⟨u, hstore, hcells, hpc, hregs, hz, hc, hring, houtside, v, hfetch, hread.trans hstored⟩

/-- Settles O38: the byte is the device's answer, waiting or free (log 1). -/
theorem inputTakesOnePortAnswer : Obligations.InputTakesOnePortAnswer := fun x y p s =>
  ⟨decode_immWord rfl rfl, inputPort_takes_answer x (.imm p) s,
    decode_regWord rfl rfl, inputPort_takes_answer x (.reg y) s⟩

/-- Settles O39: both forms are one port write of `x[X]` and the advance. -/
theorem outputMakesOnePortWrite : Obligations.OutputMakesOnePortWrite := fun x y p s =>
  ⟨decode_immWord rfl rfl, outputPort_eq x (.imm p) s, decode_regWord rfl rfl, outputPort_eq x (.reg y) s⟩

/-! ## Which instructions complete -/

/-- The scratchpad address a shape uses. -/
def Shape.scratchAddress (sh : Shape) (s : State) : Option Byte :=
  match sh with
  | .fetch _ src | .store _ src => some (src.value s)
  | .write _ _ _ | .discard _ _ _ | .transfer _ _ | .input _ _ | .output _ _ => none

theorem scratchAddress_eq (i : Instr) (s : State) : scratchAddress i s = (shapeOf i).scratchAddress s := by
  cases i <;> rfl

/-- A shape that uses no scratchpad address, or one of a cell, answers a next state (R171). -/
theorem Shape.run_completes {sh : Shape} {s : State} (h : ∀ a, sh.scratchAddress s = some a → a.toNat ≤ 63) :
    ∃ t, sh.run s = .next t := by
  cases sh with
  | fetch x src => exact ⟨_, fetchCell_ok (Nat.lt_succ_of_le (h _ rfl))⟩
  | store x src => exact ⟨_, storeCell_ok (Nat.lt_succ_of_le (h _ rfl))⟩
  | transfer guard b =>
    cases hg : guardHolds guard s with
    | true => exact ⟨b.target s, by simp [Shape.run, hg]⟩
    | false => exact ⟨s.advance, by simp [Shape.run, hg]⟩
  | write | discard | input | output => exact ⟨_, rfl⟩

/-- A shape that uses an address above 63 faults with it (R170, R192). -/
theorem Shape.run_fault {sh : Shape} {s : State} {a : Byte} (hsh : sh.scratchAddress s = some a) (ha : 63 < a.toNat) :
    sh.run s = .fault (.scratchpadAddressOutOfRange a) := by
  cases sh with
  | fetch x src => cases hsh; exact fetchCell_fault ha
  | store x src => cases hsh; exact storeCell_fault ha
  | write | discard | transfer | input | output => cases hsh

/-- Settles O48, shape by shape: the address check of FETCH and STORE is the only one an instruction makes. -/
theorem everyInstructionCompletesButBadScratchAddresses :
    Obligations.EveryInstructionCompletesButBadScratchAddresses := by
  intro i s
  rw [exec_eq_run, scratchAddress_eq]
  exact ⟨Shape.run_completes, fun a => Shape.run_fault⟩

end Sys2Proof.Machine

/-! # Proofs about faults

A word that rule R88 names is the error case of the decoder, which `step` turns into the fault without executing anything
(R191). A step that faults ends the run or the session it is in, with the state as it was (R195). -/

namespace Sys2Proof.Machine

/-! ## Illegal words at dispatch -/

/-- A word of a listed group is illegal whatever its other fields (R88, item 1). -/
theorem illegality_of_illegalGroup {w : Word} (h : w.toNat / 0x1000 ∈ illegalGroups) : illegality w = some .group :=
  if_pos h

theorem step_of_illegality {s : State} {cause : IllegalCause} (h : illegality s.fetch = some cause) :
    step s = .fault (.illegalInstruction cause s.fetch) :=
  step_of_illegal ((decode_error_iff s.fetch cause).2 h)

theorem State.fetch_placeWord (s : State) (w : Word) : (s.placeWord s.pc w).fetch = w :=
  (s.wordAt_placeWord s.pc s.pc w).trans (if_pos rfl)

/-- Settles O9: the decoder rejects what rule R88 names, and group 0x3F is one of the listed groups. -/
theorem illegalWordFaultsAtDispatch : Obligations.IllegalWordFaultsAtDispatch := by
  refine ⟨fun _ _ => step_of_illegality, fun w hgroup => ?_⟩
  have hfetch : (State.reset.placeWord 0 w).fetch = w := State.reset.fetch_placeWord w
  have hillegal : illegality w = some .group := illegality_of_illegalGroup (by rw [hgroup]; decide)
  have hfault := step_of_illegality (s := State.reset.placeWord 0 w) (by rw [hfetch]; exact hillegal)
  rwa [hfetch] at hfault

/-! ## Runs and sessions that begin with a fault -/

theorem runLoop_succ_of_fault {s : State} {f : Fault} (h : step s = .fault f) (n : Nat) :
    runLoop (n + 1) s = (s, some (.fault f)) := by
  rw [runLoop, stepCall_of_fault h]

/-- Nothing that the host had planned after the faulting step takes place. -/
theorem session_step_of_fault {s : State} {f : Fault} (h : step s = .fault f) (rest : List HostEvent) :
    session (.step :: rest) s = (s, some (.fault f)) := by
  rw [session, stepCall_of_fault h]

/-- Settles O50: the first step stops both, in the state it began in, so a new attempt begins there again. -/
theorem faultLeavesTheStateAndRepeats : Obligations.FaultLeavesTheStateAndRepeats :=
  fun _ _ hfault n => ⟨runLoop_succ_of_fault hfault n, session_step_of_fault hfault (.replicate n .step)⟩

end Sys2Proof.Machine

/-! # Proofs about the host's moves and the checks of a step

A host move says what it does in one record update, so each statement about a move is read off it, and a session keeps
what every step and every move keeps. For the checks of rule R223, `faultOfChecks_eq` cuts their list in two, the items
of rule R88 and the range check of the addressed cell. The step makes the first part at dispatch and the second in FETCH
and STORE. -/

namespace Sys2Proof.Machine

/-! ## Sessions -/

theorem State.inv_of_same {s t : State} (hs : s.Inv) (hscratch : t.scratch = s.scratch) (hprog : t.prog = s.prog) :
    t.Inv := by
  rwa [State.Inv, hscratch, hprog]

/-- Clearing the scratchpad gives the empty list, which is canonical. -/
theorem State.inv_of_cleared {s t : State} (hs : s.Inv) (hscratch : t.scratch = []) (hprog : t.prog = s.prog) :
    t.Inv := by
  obtain ⟨-, hwf⟩ := hs
  obtain ⟨hempty, -⟩ := resetStateIsCanonical
  rw [State.Inv, hscratch, hprog]
  exact ⟨hempty, hwf⟩

/-- A load is a move only when its image is canonical; no other move writes an entry into either memory. -/
theorem applyHost_inv {m : HostMove} {s t : State} (h : applyHost m s = some t) (hs : s.Inv) : t.Inv := by
  cases m with
  | reset => cases h; exact State.inv_of_cleared hs rfl rfl
  | clear part =>
    cases h
    cases part with
    | scratchpad => exact State.inv_of_cleared hs rfl rfl
    | registers | flags | programCounter | returnStack => exact State.inv_of_same hs rfl rfl
  | load image =>
    obtain ⟨hwf, hload⟩ := Option.ite_none_right_eq_some.1 h
    cases hload
    exact ⟨hs.1, hwf⟩
  | inject r v => cases h; exact State.inv_of_same hs rfl rfl

/-- What every step and every host move keeps, every session keeps. -/
theorem session_keeps {P : State → Prop} (hstep : ∀ s t, P s → step s = .next t → P t)
    (hmove : ∀ m s t, P s → applyHost m s = some t → P t) (events : List HostEvent) (s : State) (hs : P s) :
    P (session events s).1 := by
  induction events generalizing s with
  | nil => exact hs
  | cons event rest ih =>
    cases event with
    | step =>
      rcases stepCall_cases s with ⟨t, hnext, hcall⟩ | ⟨why, hcall⟩ <;> simp only [session, hcall]
      · exact ih t (hstep s t hs hnext)
      · exact hs
    | move m =>
      cases happly : applyHost m s with
      | none => simpa only [session, happly] using hs
      | some t => simpa only [session, happly] using ih t (hmove m s t hs happly)

/-- Settles O53, by induction on the events. -/
theorem sessionsKeepTheInvariant : Obligations.SessionsKeepTheInvariant :=
  session_keeps stepKeepsTheInvariant fun _ _ _ hs happly => applyHost_inv happly hs

/-! ## The checks of a step -/

/-- The scratchpad address that the groups of rule R223 examine, from the fields of the fetched word. -/
def examinedAddress (g : BitVec 6) (k v : Byte) : Option Byte :=
  if g ∈ [0x06#6, 0x2E#6] then some k else if g ∈ [0x07#6, 0x2F#6] then some v else none

/-- The scratchpad address a state is about to use, if its word is one of a FETCH or STORE. -/
def State.fetchedAddress (s : State) : Option Byte :=
  examinedAddress (fieldGroup s.fetch) (fieldImm8 s.fetch) (s.readReg (fieldReg2 s.fetch))

/-- The range check of one address (R52, R192). -/
def rangeFault (a : Byte) : Option Fault :=
  if 63 < a.toNat then some (.scratchpadAddressOutOfRange a) else none

theorem rangeFault_eq_none_iff {a : Byte} : rangeFault a = none ↔ a.toNat ≤ 63 := by
  simp [rangeFault]

theorem rangeFault_eq_some {a : Byte} {f : Fault} (h : rangeFault a = some f) :
    63 < a.toNat ∧ f = .scratchpadAddressOutOfRange a := by
  obtain ⟨hlarge, hf⟩ := Option.ite_none_right_eq_some.1 h
  exact ⟨hlarge, (Option.some.inj hf).symm⟩

/-- An answer of the decoder addresses the cell that the word's own fields address. -/
def AddressesAs (s : State) (a : Option Byte) : Except IllegalCause Instr → Prop
  | .ok i => scratchAddress i s = a
  | .error _ => True

theorem decodeShift_addressesAs (s : State) (x : Reg) (sel : BitVec 4) : AddressesAs s none (decodeShift x sel) := by
  unfold decodeShift
  split
  case h_11 => trivial
  all_goals rfl

theorem decodeCond_addressesAs {s : State} {iZ iNZ iC iNC : Instr} (hZ : scratchAddress iZ s = none)
    (hNZ : scratchAddress iNZ s = none) (hC : scratchAddress iC s = none) (hNC : scratchAddress iNC s = none)
    (f : BitVec 4) : AddressesAs s none (decodeCond f iZ iNZ iC iNC) := by
  unfold decodeCond
  split
  · exact hZ
  · exact hNZ
  · exact hC
  · exact hNC
  · trivial

/-- Group by group of the opcode map (R80), with the branches of `decode_faithful`. -/
theorem decode_addressesAs (s : State) (w : Word) :
    AddressesAs s (examinedAddress (fieldGroup w) (fieldImm8 w) (s.readReg (fieldReg2 w))) (decode w) := by
  rw [decode]
  split
  case h_25 hg => rw [hg]; exact decodeShift_addressesAs s _ _
  case h_27 hg | h_33 hg | h_35 hg => rw [hg]; exact decodeCond_addressesAs rfl rfl rfl rfl _
  case h_36 => trivial
  all_goals
    rename_i hg
    rw [hg]
    rfl

theorem scratchAddress_of_decode {s : State} {i : Instr} (h : decode s.fetch = .ok i) :
    scratchAddress i s = s.fetchedAddress := by
  have haddress := decode_addressesAs s s.fetch
  rwa [h] at haddress

theorem fieldImm8_eq_ofNat (w : Word) : BitVec.ofNat 8 (w.toNat % 0x100) = fieldImm8 w := by
  rw [← fieldImm8_toNat, BitVec.ofNat_toNat, BitVec.setWidth_eq]

/-- The four listed condition fields are those whose two low bits are zero (R77, R88). -/
theorem condField_unlisted_iff (n : Nat) : n % 0x10 ∉ [0x0, 0x4, 0x8, 0xC] ↔ n % 4 ≠ 0 := by
  simp only [List.mem_cons, List.not_mem_nil, or_false]
  omega

theorem group_mem_iff (w : Word) (g h : BitVec 6) :
    w.toNat / 0x1000 ∈ [g.toNat, h.toNat] ↔ fieldGroup w ∈ [g, h] := by
  simp only [List.mem_cons, List.not_mem_nil, or_false, ← fieldGroup_toNat, BitVec.toNat_inj]

/-- The last two checks of rule R223, on fields; no group is of both forms. -/
theorem examinedAddress_bind_rangeFault (g : BitVec 6) (k v : Byte) :
    (examinedAddress g k v).bind rangeFault =
      if g ∈ [0x06#6, 0x2E#6] ∧ 63 < k.toNat then some (.scratchpadAddressOutOfRange k)
      else if g ∈ [0x07#6, 0x2F#6] ∧ 63 < v.toNat then some (.scratchpadAddressOutOfRange v)
      else none := by
  have hdisjoint : g ∈ [0x06#6, 0x2E#6] → g ∉ [0x07#6, 0x2F#6] := by
    revert g
    decide
  by_cases himm : g ∈ [0x06#6, 0x2E#6]
  · simp [examinedAddress, rangeFault, himm, hdisjoint himm, -List.mem_cons]
  · by_cases hreg : g ∈ [0x07#6, 0x2F#6] <;> simp [examinedAddress, rangeFault, himm, hreg, -List.mem_cons]

/-- The five checks of rule R223 are the three items of rule R88 and then the range check of the addressed cell. -/
theorem faultOfChecks_eq (s : State) :
    faultOfChecks s = ((illegality s.fetch).map fun cause => .illegalInstruction cause s.fetch).or
      (s.fetchedAddress.bind rangeFault) := by
  have hreg2 (h : s.fetch.toNat / 0x10 % 0x10 < 16) : ⟨s.fetch.toNat / 0x10 % 0x10, h⟩ = fieldReg2 s.fetch :=
    Fin.ext (fieldReg2_val s.fetch).symm
  have himm : s.fetch.toNat / 0x1000 ∈ [0x06, 0x2E] ↔ fieldGroup s.fetch ∈ [0x06#6, 0x2E#6] :=
    group_mem_iff s.fetch 0x06#6 0x2E#6
  have hreg : s.fetch.toNat / 0x1000 ∈ [0x07, 0x2F] ↔ fieldGroup s.fetch ∈ [0x07#6, 0x2F#6] :=
    group_mem_iff s.fetch 0x07#6 0x2F#6
  rw [State.fetchedAddress, examinedAddress_bind_rangeFault]
  simp only [faultOfChecks, illegality, condField_unlisted_iff, fieldImm8_eq_ofNat, hreg2, himm, hreg]
  split
  case isTrue hgroup => rfl
  split
  case isTrue hselector => rfl
  split
  case isTrue hcondition => rfl
  rfl

theorem faultOfChecks_of_illegal {s : State} {cause : IllegalCause} (h : illegality s.fetch = some cause) :
    faultOfChecks s = some (.illegalInstruction cause s.fetch) := by
  rw [faultOfChecks_eq, h]
  rfl

theorem faultOfChecks_of_decode {s : State} {i : Instr} (h : decode s.fetch = .ok i) :
    faultOfChecks s = (scratchAddress i s).bind rangeFault := by
  rw [faultOfChecks_eq, (decode_ok h).1, scratchAddress_of_decode h]
  rfl

/-- The three ends of a step, with what the checks report: an illegal word, an address out of range, or a next state. -/
theorem step_as_checked (s : State) :
    (∃ cause, step s = .fault (.illegalInstruction cause s.fetch) ∧
      faultOfChecks s = some (.illegalInstruction cause s.fetch)) ∨
    (∃ a, step s = .fault (.scratchpadAddressOutOfRange a) ∧
      faultOfChecks s = some (.scratchpadAddressOutOfRange a)) ∨
    ∃ t, step s = .next t ∧ faultOfChecks s = none := by
  cases hd : decode s.fetch with
  | error cause => exact .inl ⟨cause, step_of_illegal hd, faultOfChecks_of_illegal (decode_error hd)⟩
  | ok i =>
    obtain ⟨hcompletes, hfaults⟩ := everyInstructionCompletesButBadScratchAddresses i s
    rw [step_of_decode hd, faultOfChecks_of_decode hd]
    right
    cases hchecked : (scratchAddress i s).bind rangeFault with
    | none =>
      obtain ⟨t, ht⟩ := hcompletes fun a ha => rangeFault_eq_none_iff.1 (Option.bind_eq_none_iff.1 hchecked a ha)
      exact .inr ⟨t, ht, rfl⟩
    | some f =>
      obtain ⟨a, ha, hrange⟩ := Option.bind_eq_some_iff.1 hchecked
      obtain ⟨hlarge, rfl⟩ := rangeFault_eq_some hrange
      exact .inl ⟨a, hfaults a ha hlarge, rfl⟩

/-- Settles O49: at each end of the step the checks report what it answered, and only two kinds of fault occur. -/
theorem stepFaultsExactlyAsTheStepCycleChecks : Obligations.StepFaultsExactlyAsTheStepCycleChecks := by
  intro s
  rcases step_as_checked s with ⟨cause, hstep, hchecks⟩ | ⟨a, hstep, hchecks⟩ | ⟨t, hstep, hchecks⟩ <;>
    simp [hstep, hchecks]

/-! ## A step runs what it fetched -/

/-- Settles O8: the dispatch of a legal word is the call of its meaning, and the word placed at pc is the listed one. -/
theorem stepRunsTheDecodedInstruction : Obligations.StepRunsTheDecodedInstruction :=
  ⟨fun _ _ => step_of_decode, State.fetch_placeWord⟩

theorem step_selfJump {s : State} (h : AtSelfJump s) : step s = .next s := by
  obtain ⟨t, hdecode, htarget⟩ := h
  calc step s
    _ = exec (.jump t) s := step_of_decode hdecode
    _ = .next (s.setPc (targetAddr t)) := rfl
    _ = .next s := by rw [htarget, State.setPc]

/-- Settles O55, by induction on the number of steps. -/
theorem selfJumpRunsForEverUnchanged : Obligations.SelfJumpRunsForEverUnchanged := by
  intro s n hjump
  induction n with
  | zero => rfl
  | succ n ih => rw [runLoop_succ_of_next (step_selfJump hjump), ih]

/-! ## What the load and the injection do -/

/-- In a list of rising addresses no earlier entry hides a later one. -/
theorem lookupAt_of_mem {α : Type} {m : List (Nat × α)} (hm : Rising m) {a : Nat} {v : α} (h : (a, v) ∈ m) :
    lookupAt a m = some v := by
  induction m with
  | nil => cases h
  | cons head rest ih =>
    obtain ⟨hhead, hrest⟩ := List.pairwise_cons.1 hm
    rcases List.mem_cons.1 h with rfl | hlater
    · exact if_pos rfl
    · have hne : head.1 ≠ a := Nat.ne_of_lt (hhead _ hlater)
      exact (if_neg hne).trans (ih hrest hlater)

/-- Settles O57: an image in canonical form lists an address once, and below 1024. -/
theorem hostLoadReplacesOnlyTheProgram : Obligations.HostLoadReplacesOnlyTheProgram := by
  rintro s image ⟨hrising, hbound⟩
  refine ⟨s.hostLoad image, applyHost_load ⟨hrising, hbound⟩ s, fun a w hcell => ?_,
    rfl, ⟨rfl, rfl, rfl, rfl⟩, ⟨rfl, rfl⟩, rfl, rfl⟩
  exact wordAt_hostLoad s (hbound _ hcell) (lookupAt_of_mem hrising hcell)

/-- Settles O58: the injection is the register write of the instructions, with nothing around it. -/
theorem hostInjectionWritesOneRegister : Obligations.HostInjectionWritesOneRegister := fun s r v =>
  ⟨s.writeReg r v, rfl, fun q => s.readReg_writeReg r q v, rfl, rfl, rfl, rfl, ⟨rfl, rfl⟩, rfl, rfl, rfl, rfl⟩

end Sys2Proof.Machine

/-! # The words of the spec's field-extraction table

A legal word is its instruction's own word up to the unexamined bits (R89, R90), so decoding it is the round trip of rule
R73. Of the words in the table only `0x2013C`, an `RR s1`, has an unexamined bit set. -/

namespace Sys2Proof.Machine

theorem decode_of_canonicalize_eq {w : Word} {i : Instr} (h : canonicalize w = encode i) : decode w = .ok i := by
  rw [← decode_canonicalize, h, decodeEncodeIsIdentity]

/-- Settles O7: eight words have the canonical form of their instructions, and group 0x3F is one that rule R88 lists. -/
theorem writtenWordsDecode : Obligations.WrittenWordsDecode := by
  have hgroup : decode 0x3FFFF = .error .group :=
    (decode_error_iff _ _).2 (illegality_of_illegalGroup (by decide))
  refine ⟨?_, ?_, ?_, ?_, ?_, ?_, ?_, hgroup, ?_⟩
  all_goals exact decode_of_canonicalize_eq (by decide)

end Sys2Proof.Machine
